-- ==== Sys2Proof/Word.lean ====
section
/-! DEFINITION. The word types of the DDSC-1 command set and the channel index.
The block consumes whole 32-bit command words (R100, R67); bus frames are made of bytes (R8, R64). -/

namespace Sys2Proof

/-- One word of the command stream: a header or an operand (R100, R105). -/
abbrev Word := BitVec 32

/-- One byte of a bus frame, and the 8-bit chip register addresses (R8, R64). -/
abbrev Byte := BitVec 8

/-- A channel index 0..3 (R6 NUM_CHANNELS and NUM_STEPPERS, R101). -/
abbrev Chan := Fin 4

end Sys2Proof
end

