-- ==== Sys2Proof/Syntax.lean ====
section
/-! DEFINITION. The twelve commands of the DDSC-1 command set (R107), their operand forms (R102 to R105)
and the six fault kinds of R303, four of which the decoder names. -/

namespace Sys2Proof

/-- The K bit of R103: `raw` is K = 0 (raw register words), `domain` is K = 1 (Hz, Q16.16 degrees or fractions). -/
inductive Kind where
  | raw
  | domain
  deriving DecidableEq, Repr

/-- A line level: `high` is 1 (R31, R104). -/
inductive Level where
  | low
  | high
  deriving DecidableEq, Repr

/-- The three sweep kinds of R220. -/
inductive SweepKind where
  | freq
  | phase
  | amp
  deriving DecidableEq, Repr

/-- The six operand words of a sweep (R105): w0 start, w1 end, w2 rising delta, w3 falling delta,
w4 = {falling rate in 15:8, rising rate in 7:0}, w5 hold in milliseconds. -/
structure SweepOps where
  start  : Word
  stop   : Word
  rdelta : Word
  fdelta : Word
  rrate  : Byte
  frate  : Byte
  hold   : Word
  deriving DecidableEq, Repr

/-- One constructor per row of the opcode map (R107). `v` is the V bit (R102), `k` the K bit (R103). -/
inductive Instr where
  /-- SETCLK hz (R180). -/
  | setclk (hz : Word)
  /-- INIT[.V] ratio (R181). -/
  | init (v : Bool) (ratio : Byte)
  /-- SELECT mask (R182). -/
  | select (mask : BitVec 4)
  /-- SETF[.V][.W] value (R183). -/
  | setf (v : Bool) (k : Kind) (value : Word)
  /-- SETP[.W] value (R184). -/
  | setp (k : Kind) (value : Word)
  /-- SETA[.V][.W] value (R185). -/
  | seta (v : Bool) (k : Kind) (value : Word)
  /-- COMMIT (R186). -/
  | commit
  /-- SWPF[.V][.W] (R226). -/
  | swpf (ch : Chan) (v : Bool) (k : Kind) (ops : SweepOps)
  /-- SWPP[.W] (R227). -/
  | swpp (ch : Chan) (k : Kind) (ops : SweepOps)
  /-- SWPA[.V][.W] (R228). -/
  | swpa (ch : Chan) (v : Bool) (k : Kind) (ops : SweepOps)
  /-- TLOAD[.W] ch, entries (R261). -/
  | tload (ch : Chan) (k : Kind) (entries : List Word)
  /-- POLL ch, step, rst (R262). -/
  | poll (ch : Chan) (step rst : Level)
  deriving DecidableEq, Repr

/-- The fault kinds of R303, with their codes in order 1 to 6. The first four are raised by decode (R111). -/
inductive FaultKind where
  /-- 1: the header's opcode is not in 0x01..0x0C (R108). -/
  | reservedOpcode
  /-- 2: a reserved header bit, or a sweep's w4[31:16], is not zero (R109). -/
  | reservedField
  /-- 3: the stream ends before the command's last operand (R111). -/
  | truncatedCommand
  /-- 4: TLOAD with len = 0 or len > 100 (R111, R261). -/
  | tableLength
  /-- 5: a Hz conversion with clk = 0 (R141). -/
  | clockZero
  /-- 6: POLL on a channel with tlen = 0 (R262). -/
  | stepperUnconfigured
  deriving DecidableEq, Repr

end Sys2Proof
end

