-- ==== Sys2Proof/Config.lean ====
section
/-! DEFINITION. The configuration of a model instance: the fixed values and the OPEN parameters of R6,
and the one free value of the model (R76, R332). -/

namespace Sys2Proof.Config

/-- PLL_MAX of R6: the chip's maximum PLL ratio (R156). -/
def pllMax : Nat := 20

/-- RESET_MIN_MS of R6: the shortest legal reset pulse in milliseconds (R64, R352). -/
def resetMinMs : Nat := 10

/-- TABLE_MAX of R6: entries of one stepper table (R32, R61). -/
def tableMax : Nat := 100

/-- NUM_CHANNELS and NUM_STEPPERS of R6. -/
def numChannels : Nat := 4

/-- SPI_HZ of R6: the serial clock of the bus (R65, R355). -/
def spiHz : Nat := 20000000

/-- What the chip's registers hold where the spec makes them "an unspecified value, a draw of the model"
(R76 after a chip reset, R332 at block reset). The first argument numbers the draw, the second the register;
nothing is known of any value. DESIGN CHOICE, safe: assumption log 3. -/
opaque freeChipValue : Nat → Nat → Nat

/-- CLOCK_MODE of R6 (D12): what a second INIT does to the clock. -/
inductive ClockMode where
  | compound
  | idempotent
  deriving DecidableEq, Repr

/-- CURSOR_INIT of R6 (D27): the stepper cursor after reset and after TLOAD. -/
inductive CursorInit where
  | minusOne
  | zero
  deriving DecidableEq, Repr

/-- The OPEN parameters of R6: "an argument of the model". They are data that no command changes (R38),
held in the state so that every statement about all states speaks of every instance. DEDUCED, safe: log 1. -/
structure Params where
  /-- CLOCK_MODE (D12). -/
  clockMode : ClockMode
  /-- CSR_SHADOW_RESET (D18). -/
  csrShadowReset : Byte
  /-- CURSOR_INIT (D27). -/
  cursorInit : CursorInit
  /-- NYQ_NUM (D21). -/
  nyqNum : Nat
  /-- NYQ_DEN (D21). -/
  nyqDen : Nat
  /-- AMP_FULL_SCALE (D9). -/
  ampFullScale : Nat
  /-- CFR_TAIL (D35): the two bytes after the preamble byte. -/
  cfrTail : Byte × Byte
  /-- FR1_PAYLOAD (D15) as a table over the clamped ratios 0..20, each of FR1's three bytes. -/
  fr1Payload : Vector (Byte × Byte × Byte) 21
  /-- RESET_PULSE_MS (D41). -/
  resetPulseMs : Nat
  /-- CSR_BUFFERED (D45), read by the observer only. -/
  csrBuffered : Bool
  deriving DecidableEq, Repr

/-- The limits R6 and R352 put on a configuration: the reset pulse is at least 10 ms. -/
abbrev Params.legal (p : Params) : Prop := resetMinMs ≤ p.resetPulseMs

/-- FR1_PAYLOAD's default of R156 (D15): `[(r << 2) & 0x7C, 0x00, 0x00]` for r in 0..20. -/
def defaultFr1 : Vector (Byte × Byte × Byte) 21 :=
  ⟨((List.range 21).map fun r => (BitVec.ofNat 8 ((r <<< 2) &&& 0x7C), 0#8, 0#8)).toArray, by simp⟩

/-- The defaults of R6, "the value the spec's examples use". -/
def defaults : Params where
  clockMode := .compound
  csrShadowReset := 0xF0#8
  cursorInit := .minusOne
  nyqNum := 1
  nyqDen := 2
  ampFullScale := 1023
  cfrTail := (0x43#8, 0x00#8)
  fr1Payload := defaultFr1
  resetPulseMs := 10
  csrBuffered := false

end Sys2Proof.Config
end

