-- ==== Sys2Proof/WellFormed.lean ====
section
/-! DEFINITION. Which terms of Instr stand for a command: the one bound the constructors' types do not carry is
TLOAD's length, 1 to 100 entries (R106, R261). -/

namespace Sys2Proof

/-- A command that an encoding exists for. TLOAD holds 1 to TABLE_MAX entries (R106, R261). -/
def Instr.wf : Instr → Bool
  | .setclk _ => true
  | .init _ _ => true
  | .select _ => true
  | .setf _ _ _ => true
  | .setp _ _ => true
  | .seta _ _ _ => true
  | .commit => true
  | .swpf _ _ _ _ => true
  | .swpp _ _ _ => true
  | .swpa _ _ _ _ => true
  | .tload _ _ entries => decide (1 ≤ entries.length ∧ entries.length ≤ Config.tableMax)
  | .poll _ _ _ => true

end Sys2Proof
end

