-- ==== Sys2Proof/Decode.lean ====
section
/-! DEFINITION. The decoder of R111, total on any list of words and rejecting by the fault kinds of R303, and
after it the encoder written from the header format of R101. Both read one opcode map, R107's. -/

namespace Sys2Proof

/-! ## The header's fields (R101) -/

/-- op, bits [7:0] (R101). -/
def hdrOp (h : Word) : Byte := h.extractLsb' 0 8

/-- ch, bits [9:8] (R101). -/
def hdrCh (h : Word) : Chan := (h.extractLsb' 8 2).toFin

/-- V, bit [10] (R101, R102). -/
def hdrV (h : Word) : Bool := h.getLsbD 10

/-- K, bit [11] (R101, R103). -/
def hdrK (h : Word) : Kind := if h.getLsbD 11 then .domain else .raw

/-- imm8, bits [23:16] (R101, R104). -/
def hdrImm8 (h : Word) : Byte := h.extractLsb' 16 8

/-- SELECT's mask, imm8[3:0] (R104). -/
def hdrMask (h : Word) : BitVec 4 := h.extractLsb' 16 4

/-- TLOAD's len, imm8[6:0] (R104), the `h[22:16]` of R111. -/
def hdrLen (h : Word) : Nat := (h.extractLsb' 16 7).toNat

/-- A line level from its bit: 1 is HIGH (R104). -/
def levelOfBit (b : Bool) : Level := if b then .high else .low

/-- POLL's step level, imm8[0] (R104). -/
def hdrStep (h : Word) : Level := levelOfBit (h.getLsbD 16)

/-- POLL's rst level, imm8[1] (R104). -/
def hdrRst (h : Word) : Level := levelOfBit (h.getLsbD 17)

/-! ## The opcode map (R107) -/

/-- The twelve rows of R107. -/
inductive Op where
  | setclk | init | select | setf | setp | seta | commit | swpf | swpp | swpa | tload | poll
  deriving DecidableEq, Repr

/-- The row's opcode byte (R107). -/
def Op.code : Op → Byte
  | .setclk => 0x01#8
  | .init => 0x02#8
  | .select => 0x03#8
  | .setf => 0x04#8
  | .setp => 0x05#8
  | .seta => 0x06#8
  | .commit => 0x07#8
  | .swpf => 0x08#8
  | .swpp => 0x09#8
  | .swpa => 0x0A#8
  | .tload => 0x0B#8
  | .poll => 0x0C#8

/-- The row's `match` column (R107): its opcode, every other bit 0. -/
def Op.pattern : Op → Word
  | .setclk => 0x00000001#32
  | .init => 0x00000002#32
  | .select => 0x00000003#32
  | .setf => 0x00000004#32
  | .setp => 0x00000005#32
  | .seta => 0x00000006#32
  | .commit => 0x00000007#32
  | .swpf => 0x00000008#32
  | .swpp => 0x00000009#32
  | .swpa => 0x0000000A#32
  | .tload => 0x0000000B#32
  | .poll => 0x0000000C#32

/-- The row's `mask` column (R107): the opcode and every bit reserved for it. -/
def Op.mask : Op → Word
  | .setclk => 0xFFFFFFFF#32
  | .init => 0xFF00FBFF#32
  | .select => 0xFFF0FFFF#32
  | .setf => 0xFFFFF3FF#32
  | .setp => 0xFFFFF7FF#32
  | .seta => 0xFFFFF3FF#32
  | .commit => 0xFFFFFFFF#32
  | .swpf => 0xFFFFF0FF#32
  | .swpp => 0xFFFFF4FF#32
  | .swpa => 0xFFFFF0FF#32
  | .tload => 0xFF80F4FF#32
  | .poll => 0xFFFCFCFF#32

/-- The row an opcode byte names; none for the reserved opcodes 0x00 and 0x0D to 0xFF (R108). -/
def opOfCode (b : Byte) : Option Op :=
  match b.toNat with
  | 1 => some .setclk
  | 2 => some .init
  | 3 => some .select
  | 4 => some .setf
  | 5 => some .setp
  | 6 => some .seta
  | 7 => some .commit
  | 8 => some .swpf
  | 9 => some .swpp
  | 10 => some .swpa
  | 11 => some .tload
  | 12 => some .poll
  | _ => none

/-- The operand count n from the header alone (R106): TLOAD's is its len field. -/
def Op.count (o : Op) (h : Word) : Nat :=
  match o with
  | .init | .select | .commit | .poll => 0
  | .setclk | .setf | .setp | .seta => 1
  | .swpf | .swpp | .swpa => 6
  | .tload => hdrLen h

/-! ## The decode procedure (R111) -/

/-- Operand word w[k] of R111, where `ws` holds the words after the header. -/
def operand (ws : List Word) (k : Nat) : Word := ws.getD k 0#32

/-- A sweep's operands (R105); w4[31:16] is reserved, checked last of all (R109, R111). -/
def decodeSweepOps (ws : List Word) : Except FaultKind SweepOps :=
  if (operand ws 4).extractLsb' 16 16 = 0#16 then
    .ok { start := operand ws 0, stop := operand ws 1, rdelta := operand ws 2, fdelta := operand ws 3
          rrate := (operand ws 4).extractLsb' 0 8, frate := (operand ws 4).extractLsb' 8 8
          hold := operand ws 5 }
  else .error .reservedField

/-- The command of row `o`, once its header and the presence of its operands are checked (R105, R111). -/
def buildInstr (o : Op) (h : Word) (ws : List Word) : Except FaultKind Instr :=
  match o with
  | .setclk => .ok (.setclk (operand ws 0))
  | .init => .ok (.init (hdrV h) (hdrImm8 h))
  | .select => .ok (.select (hdrMask h))
  | .setf => .ok (.setf (hdrV h) (hdrK h) (operand ws 0))
  | .setp => .ok (.setp (hdrK h) (operand ws 0))
  | .seta => .ok (.seta (hdrV h) (hdrK h) (operand ws 0))
  | .commit => .ok .commit
  | .swpf => (decodeSweepOps ws).map (.swpf (hdrCh h) (hdrV h) (hdrK h))
  | .swpp => (decodeSweepOps ws).map (.swpp (hdrCh h) (hdrK h))
  | .swpa => (decodeSweepOps ws).map (.swpa (hdrCh h) (hdrV h) (hdrK h))
  | .tload => .ok (.tload (hdrCh h) (hdrK h) (ws.take (hdrLen h)))
  | .poll => .ok (.poll (hdrCh h) (hdrStep h) (hdrRst h))

/-- R111 for a header `h` whose row is `o`, with `ws` the words after the header: reserved header bits, then TLOAD's
length, then truncation, then the operands. -/
def decodeRow (o : Op) (h : Word) (ws : List Word) : Except FaultKind Instr :=
  if h &&& o.mask ≠ o.pattern then .error .reservedField
  else if o = .tload ∧ (hdrLen h = 0 ∨ hdrLen h > Config.tableMax) then .error .tableLength
  else if ws.length < o.count h then .error .truncatedCommand
  else buildInstr o h ws

/-- The decode procedure of R111 on the words of the stream from cp on. With no word at cp, `CmdWord(cp)` is the
read past the end that R60 makes a TruncatedCommand. DEDUCED, safe: log 8. -/
def decode : List Word → Except FaultKind Instr
  | [] => .error .truncatedCommand
  | h :: ws =>
    match opOfCode (hdrOp h) with
    | none => .error .reservedOpcode
    | some o => decodeRow o h ws

/-! ## The encoder, from R101, R104, R105 and R107 -/

/-- The header of R101: op at bit 0, ch at 8, V at 10, K at 11, imm8 at 16, the reserved bits 0. -/
def header (o : Op) (ch : Chan) (v k : Bool) (imm8 : Byte) : Word :=
  BitVec.ofNat 32
    (o.code.toNat + ch.val * 2 ^ 8 + v.toNat * 2 ^ 10 + k.toNat * 2 ^ 11 + imm8.toNat * 2 ^ 16)

/-- The K bit of a kind (R103). -/
def Kind.bit : Kind → Bool
  | .raw => false
  | .domain => true

/-- The bit of a level (R104). -/
def Level.bit : Level → Bool
  | .low => false
  | .high => true

/-- A sweep's operand words (R105). -/
def SweepOps.words (p : SweepOps) : List Word :=
  [p.start, p.stop, p.rdelta, p.fdelta, BitVec.ofNat 32 (p.rrate.toNat + p.frate.toNat * 2 ^ 8), p.hold]

/-- The header word of a command (R101, R104, R107). -/
def encodeHeader : Instr → Word
  | .setclk _ => header .setclk 0 false false 0
  | .init v ratio => header .init 0 v false ratio
  | .select mask => header .select 0 false false (mask.setWidth 8)
  | .setf v k _ => header .setf 0 v k.bit 0
  | .setp k _ => header .setp 0 false k.bit 0
  | .seta v k _ => header .seta 0 v k.bit 0
  | .commit => header .commit 0 false false 0
  | .swpf ch v k _ => header .swpf ch v k.bit 0
  | .swpp ch k _ => header .swpp ch false k.bit 0
  | .swpa ch v k _ => header .swpa ch v k.bit 0
  | .tload ch k entries => header .tload ch false k.bit (BitVec.ofNat 8 (entries.length % 2 ^ 7))
  | .poll ch step rst =>
    header .poll ch false false (BitVec.ofNat 8 (step.bit.toNat + rst.bit.toNat * 2))

/-- The operand words of a command (R105). -/
def operandWords : Instr → List Word
  | .setclk hz => [hz]
  | .init _ _ => []
  | .select _ => []
  | .setf _ _ value => [value]
  | .setp _ value => [value]
  | .seta _ _ value => [value]
  | .commit => []
  | .swpf _ _ _ ops => ops.words
  | .swpp _ _ ops => ops.words
  | .swpa _ _ _ ops => ops.words
  | .tload _ _ entries => entries
  | .poll _ _ _ => []

/-- The words of a command: its header, then its operands (R100). -/
def encode (i : Instr) : List Word := encodeHeader i :: operandWords i

/-- The operand count n of R106. -/
def Instr.operandCount : Instr → Nat
  | .setclk _ => 1
  | .init _ _ => 0
  | .select _ => 0
  | .setf _ _ _ => 1
  | .setp _ _ => 1
  | .seta _ _ _ => 1
  | .commit => 0
  | .swpf _ _ _ _ => 6
  | .swpp _ _ _ => 6
  | .swpa _ _ _ _ => 6
  | .tload _ _ entries => entries.length
  | .poll _ _ _ => 0

/-! ## Command words on a byte channel (D5) -/

/-- Words carried as bytes are big-endian (D5). Bytes that do not fill a word make no word. DESIGN CHOICE,
safe: log 14. -/
def wordsOfBytes : List Byte → List Word
  | a :: b :: c :: d :: rest =>
    BitVec.ofNat 32 (a.toNat * 2 ^ 24 + b.toNat * 2 ^ 16 + c.toNat * 2 ^ 8 + d.toNat) :: wordsOfBytes rest
  | _ => []

/-- The decoder on a byte channel (D5). -/
def decodeBytes (bs : List Byte) : Except FaultKind Instr := decode (wordsOfBytes bs)

/-! ## The opcode table's numbering of bits -/

/-- The words of an instruction numbered as spec/opcode_table.json numbers bits: word 0 is the header, bit 32 k + j is
bit j of word k; bits from `nbits` on are 0, up to the longest command, a header and 100 entries. -/
def tableWords (nbits w : Nat) : List Word :=
  (List.range (1 + Config.tableMax)).map fun k => BitVec.ofNat 32 ((w % 2 ^ nbits) >>> (32 * k))

/-- What the decoder reads from an instruction in that numbering; none where it refuses. -/
def decodeTableWord (nbits w : Nat) : Option Instr :=
  match decode (tableWords nbits w) with
  | .ok i => some i
  | .error _ => none

end Sys2Proof
end

