-- ==== Sys2Proof/Machine/Memory.lean ====
section
/-! DEFINITION. The stepper table memory (R61): 4 × 100 entries of 32 bits, one whole entry the unit of access, held as a
list of (entry number, entry) pairs in one canonical form. An entry that nothing has written has no value (R45).
DEDUCED, safe: log 10. -/

namespace Sys2Proof.Machine

/-- The stepper table memory: entry number and entry, strictly rising. Entry (c, i) has number 100 c + i. -/
abbrev Memory := List (Nat × Word)

/-- How many entries the memory has (R61). -/
def memSize : Nat := Config.numChannels * Config.tableMax

/-- The number of entry (c, i) of R61. -/
def tableAddr (c : Chan) (i : Nat) : Nat := Config.tableMax * c.val + i

/-- The canonical form: entry numbers strictly rising, all inside the memory. An unlisted entry has no value, so no listed
entry can equal what an unlisted one reads as. -/
abbrev Memory.wf (m : Memory) : Prop :=
  m.Pairwise (fun a b => a.1 < b.1) ∧ ∀ cell ∈ m, cell.1 < memSize

/-- Reads one entry; none where nothing has written it (R45 "no value, not readable"). -/
def Memory.read : Memory → Nat → Option Word
  | [], _ => none
  | (b, w) :: m, a => if a = b then some w else Memory.read m a

/-- Writes one entry, keeping the entries in rising order (R61 MemWrite). -/
def Memory.write : Memory → Nat → Word → Memory
  | [], a, v => [(a, v)]
  | (b, w) :: m, a, v =>
    if a < b then (a, v) :: (b, w) :: m
    else if a = b then (a, v) :: m
    else (b, w) :: Memory.write m a v

/-- Writes a list of entries from one entry number on (R261's loop). -/
def Memory.writeFrom : Memory → Nat → List Word → Memory
  | m, _, [] => m
  | m, a, w :: ws => Memory.writeFrom (Memory.write m a w) (a + 1) ws

end Sys2Proof.Machine
end

