-- ==== Sys2Proof/Machine/Codec.lean ====
section
/-! DEFINITION. RegisterCodec (R140 to R158): total functions on natural numbers that turn Hz, degrees and amplitude
fractions into register words and frame payloads. `/` is floor division throughout (R158). -/

namespace Sys2Proof.Machine

/-! ## Byte lists (R8, R66) -/

/-- `BE_n(v)`: the n-byte big-endian list of v mod 2^(8n) (R8). -/
def bytesBE : Nat → Nat → List Byte
  | 0, _ => []
  | n + 1, v => BitVec.ofNat 8 (v >>> (8 * n)) :: bytesBE n v

/-- The register value a payload stands for, most significant byte first (R66). -/
def payloadValue (payload : List Byte) : Nat :=
  payload.foldl (fun acc b => acc * 256 + b.toNat) 0

/-! ## Frequency tuning word (R141, R142, R148) -/

/-- `ftwHz(f, clk)` of R141; none is the ClockZero case. -/
def ftwHz (f clk : Nat) : Option Nat :=
  if clk = 0 then none else some (f * 2 ^ 32 / clk % 2 ^ 32)

/-- `ftwOf(K, w, clk)` of R142: a raw FTW needs no clock. -/
def ftwOf (k : Kind) (w clk : Nat) : Option Nat :=
  match k with
  | .raw => some w
  | .domain => ftwHz w clk

/-- The payload of register 0x04, and a frequency sweep's end and delta words (R142, R148). -/
def ftwBytes (x : Nat) : List Byte := bytesBE 4 x

/-- `decodeFTW(x, clk)` of R150, an exact rational number of Hz; no command uses it. -/
def decodeFtw (x clk : Nat) : ℚ := (x : ℚ) * (clk : ℚ) / 2 ^ 32

/-! ## Phase offset word (R143, R144, R149) -/

/-- `powDeg(v)` of R143, v in Q16.16 degrees, rounded half up. -/
def powDeg (v : Nat) : Nat := (v + 720) / 1440 % 16384

/-- `powOf(K, w)` of R144: raw words truncate to 14 bits. -/
def powOf (k : Kind) (w : Nat) : Nat :=
  match k with
  | .raw => w % 2 ^ 14
  | .domain => powDeg w

/-- The payload of register 0x05 (R144). -/
def powBytes (p : Nat) : List Byte := bytesBE 2 p

/-- A phase sweep's end and delta words: left-justified in the top half of four bytes (R149). -/
def phaseSweepBytes (p : Nat) : List Byte := bytesBE 4 (p <<< 18)

/-! ## Amplitude control word (R145, R147, R151, R152) -/

/-- `ampWord(K, w)` of R145, before truncation; `fullScale` is AMP_FULL_SCALE. -/
def ampWord (fullScale : Nat) (k : Kind) (w : Nat) : Nat :=
  match k with
  | .raw => w
  | .domain => (w * fullScale + 32768) / 65536

/-- `acw(K, w)` of R145: the amplitude word truncated to 10 bits. -/
def acw (fullScale : Nat) (k : Kind) (w : Nat) : Nat := ampWord fullScale k w % 1024

/-- The payload of register 0x06 (R147): 0x00, 0x10 | a[9:8], a[7:0]. -/
def ampBytes (a : Nat) : List Byte :=
  [0x00#8, 0x10#8 ||| BitVec.ofNat 8 ((a >>> 8) &&& 0x03), BitVec.ofNat 8 (a &&& 0xFF)]

/-- An amplitude sweep's end word (R151): the ten bits MSB-aligned. -/
def ampEndBytes (t : Nat) : List Byte := bytesBE 4 (t <<< 22)

/-- An amplitude sweep's delta words (R152), with the loss of d[1:0] that the spec keeps. -/
def ampDeltaBytes (d : Nat) : List Byte :=
  [BitVec.ofNat 8 (d >>> 2), BitVec.ofNat 8 ((d <<< 8) &&& 0xFF), 0x00#8, 0x00#8]

/-! ## Channel select, sweep preamble, ramp rates (R146, R153, R154) -/

/-- `csrMerge(old, mask)` of R146: the mask in bits [7:4], bit 3 zero, old bits [2:0]. -/
def csrMerge (old : Byte) (mask : BitVec 4) : Byte :=
  (mask.setWidth 8 <<< 4) ||| (old &&& 0x07#8)

/-- The one-hot mask `1 << c` of R223 and R265. -/
def chanMask (c : Chan) : BitVec 4 := 1#4 <<< c.val

/-- The preamble byte P(k) of R153. -/
def cfrPreamble : SweepKind → Byte
  | .freq => 0x80#8
  | .phase => 0xC0#8
  | .amp => 0x40#8

/-- `cfrBytes(k)` of R153. -/
def cfrBytes (cfg : Config.Params) (k : SweepKind) : List Byte :=
  [cfrPreamble k, cfg.cfrTail.1, cfg.cfrTail.2]

/-- `lsrrBytes(rr, fr)` of R154: the falling rate first. -/
def lsrrBytes (rr fr : Byte) : List Byte := [fr, rr]

/-! ## PLL ratio (R156) -/

/-- `pllRatio(x) = min(x, PLL_MAX)` of R156. -/
def pllRatio (x : Byte) : Fin 21 := ⟨min x.toNat Config.pllMax, by unfold Config.pllMax; omega⟩

/-- The FR1 payload of R156, from the instance's FR1_PAYLOAD. -/
def fr1Bytes (cfg : Config.Params) (r : Fin 21) : List Byte :=
  let p := cfg.fr1Payload[r.val]
  [p.1, p.2.1, p.2.2]

end Sys2Proof.Machine
end

