-- ==== Sys2Proof/Machine/Event.lean ====
section
/-! DEFINITION. The output events of R64, the register map they address (R62, R63), and their form on the bus and on the
lines (R36, R65, R355, R356). -/

namespace Sys2Proof.Machine

/-- An output event (R64). -/
inductive Event where
  /-- FRAME(addr, payload): a register write, payload byte 0 sent first. -/
  | frame (addr : Byte) (payload : List Byte)
  /-- UPDATE: one high-then-low pulse of the update line. -/
  | update
  /-- RESET(ms): one high pulse of the reset line held ms milliseconds. -/
  | reset (ms : Nat)
  /-- GATE(c, level): gate line c is driven to level. -/
  | gate (ch : Chan) (level : Level)
  /-- DELAY(ms): the block waits ms milliseconds and drives no line. -/
  | delay (ms : Nat)
  deriving DecidableEq, Repr

/-! ## Register addresses (R62) -/

/-- CSR, 0x00 (R62). -/
def addrCsr : Byte := 0x00#8
/-- FR1, 0x01 (R62). -/
def addrFr1 : Byte := 0x01#8
/-- CFR, 0x03 (R62). -/
def addrCfr : Byte := 0x03#8
/-- CFTW0, 0x04 (R62). -/
def addrFtw : Byte := 0x04#8
/-- CPOW0, 0x05 (R62). -/
def addrPow : Byte := 0x05#8
/-- ACR, 0x06 (R62). -/
def addrAcr : Byte := 0x06#8
/-- LSRR, 0x07 (R62). -/
def addrLsrr : Byte := 0x07#8
/-- RDW, 0x08 (R62). -/
def addrRdw : Byte := 0x08#8
/-- FDW, 0x09 (R62). -/
def addrFdw : Byte := 0x09#8
/-- CW1, 0x0A (R62). -/
def addrCw1 : Byte := 0x0A#8

/-- The width in bytes of each register of R62; none for every address the block never writes (R63). -/
def regWidth (addr : Byte) : Option Nat :=
  match addr.toNat with
  | 0x00 => some 1
  | 0x01 => some 3
  | 0x03 => some 3
  | 0x04 => some 4
  | 0x05 => some 2
  | 0x06 => some 3
  | 0x07 => some 2
  | 0x08 => some 4
  | 0x09 => some 4
  | 0x0A => some 4
  | _ => none

/-- An event that R63 and R64 allow: a frame fills a register of R62 exactly, a reset pulse is at least 10 ms. -/
def Event.legal : Event → Bool
  | .frame addr payload => regWidth addr == some payload.length
  | .update => true
  | .reset ms => decide (Config.resetMinMs ≤ ms)
  | .gate _ _ => true
  | .delay _ => true

/-! ## The bus and the lines (R36, R65) -/

/-- The idle level of the serial clock: "clock idle low" (R6 SPI_HZ, R65). -/
def spiClockIdle : Level := .low

/-- The level that the serial clock's leading edge goes to, away from the idle level (R65). -/
def spiClockActive : Level := .high

/-- What one wire does: the chip-select, data, serial-clock, update, reset and gate lines, and waiting (R36, R64, R65). -/
inductive WireItem where
  | chipSelect (l : Level)
  | dataBit (b : Bool)
  | clockLine (l : Level)
  | updateLine (l : Level)
  | resetLine (l : Level)
  | gateLine (ch : Chan) (l : Level)
  | wait (ms : Nat)
  deriving DecidableEq, Repr

/-- One serial clock cycle: the bit is on the data line before the leading edge, and the clock returns to idle after it
(R65). -/
def clockCycle (b : Bool) : List WireItem := [.dataBit b, .clockLine spiClockActive, .clockLine spiClockIdle]

/-- The bits a receiver takes from the lines: the data line's level at each leading edge of the serial clock, "data sampled on
leading edge" (R65). `d` is the data line's level, `c` the clock's, before the items. -/
def sampledBits : Bool → Level → List WireItem → List Bool
  | _, _, [] => []
  | d, c, .clockLine l :: ws =>
    if c = spiClockIdle ∧ l = spiClockActive then d :: sampledBits d l ws else sampledBits d l ws
  | _, c, .dataBit b :: ws => sampledBits b c ws
  | d, c, .chipSelect _ :: ws => sampledBits d c ws
  | d, c, .updateLine _ :: ws => sampledBits d c ws
  | d, c, .resetLine _ :: ws => sampledBits d c ws
  | d, c, .gateLine _ _ :: ws => sampledBits d c ws
  | d, c, .wait _ :: ws => sampledBits d c ws

/-- A byte's bits, most significant first (R65). -/
def bitsMsbFirst (b : Byte) : List Bool :=
  [b.getLsbD 7, b.getLsbD 6, b.getLsbD 5, b.getLsbD 4, b.getLsbD 3, b.getLsbD 2, b.getLsbD 1, b.getLsbD 0]

/-- The bytes a frame puts on the bus, the address first (R65); none for the other events. -/
def Event.busBytes : Event → List Byte
  | .frame addr payload => addr :: payload
  | .update => []
  | .reset _ => []
  | .gate _ _ => []
  | .delay _ => []

/-- An event as the lines carry it: a frame between chip-select low and high, each bit in its clock cycle, a pulse as high
then low, a reset pulse held for its time (R36, R64, R65). DESIGN CHOICE, safe: log 17. -/
def Event.wire : Event → List WireItem
  | .frame addr payload =>
    .chipSelect .low :: ((addr :: payload).flatMap fun b => (bitsMsbFirst b).flatMap clockCycle) ++ [.chipSelect .high]
  | .update => [.updateLine .high, .updateLine .low]
  | .reset ms => [.resetLine .high, .wait ms, .resetLine .low]
  | .gate ch l => [.gateLine ch l]
  | .delay ms => [.wait ms]

/-- Serial clock cycles of an event: 8 for each byte on the bus (R65). -/
def Event.serialClocks (e : Event) : Nat := 8 * e.busBytes.length

/-- Nanoseconds of serial clocking of an event at SPI_HZ, 50 ns a bit (R355). No rule of the machine reads it. -/
def Event.busTimeNs (e : Event) : Nat := e.serialClocks * (1000000000 / Config.spiHz)

/-- Bus bytes of a list of events (R356). -/
def busByteCount (es : List Event) : Nat := (es.map fun e => e.busBytes.length).sum

end Sys2Proof.Machine
end

