-- ==== Sys2Proof/Machine/Observer.lean ====
section
/-! DEFINITION. The DDS observer (R72 to R78): the register-level model of the chip that receives the trace, with its
pending and active registers. The analog output and the ramp are outside it (R78); after a zero hold
the swept register's active value is free (D62). DEDUCED, unsafe for claims about the real chip after a sweep: log 12. -/

namespace Sys2Proof.Machine

/-- The channel registers of R72, each as wide as R62 gives. -/
structure ChanRegs where
  cfr   : BitVec 24
  cftw0 : BitVec 32
  cpow0 : BitVec 16
  acr   : BitVec 24
  lsrr  : BitVec 16
  rdw   : BitVec 32
  fdw   : BitVec 32
  cw1   : BitVec 32
  deriving DecidableEq, Repr

/-- The observer's state (R72): P and A for each channel, P1 and A1 for FR1, OCSR and, where CSR_BUFFERED, its pending PCSR.
`nextDraw` is the model's own counter of the free draws of R76 and D62. DESIGN CHOICE, safe: log 3. -/
structure Chip where
  pend : Vector ChanRegs 4
  act  : Vector ChanRegs 4
  p1   : BitVec 24
  a1   : BitVec 24
  ocsr : Byte
  pcsr : Byte
  nextDraw : Nat
  deriving DecidableEq, Repr

/-- Writes value v to the pending register at `addr` (R73). An address outside the channel registers writes none of
them. DESIGN CHOICE, safe: log 13. -/
def ChanRegs.write (r : ChanRegs) (addr : Byte) (v : Nat) : ChanRegs :=
  match addr.toNat with
  | 0x03 => { r with cfr := BitVec.ofNat 24 v }
  | 0x04 => { r with cftw0 := BitVec.ofNat 32 v }
  | 0x05 => { r with cpow0 := BitVec.ofNat 16 v }
  | 0x06 => { r with acr := BitVec.ofNat 24 v }
  | 0x07 => { r with lsrr := BitVec.ofNat 16 v }
  | 0x08 => { r with rdw := BitVec.ofNat 32 v }
  | 0x09 => { r with fdw := BitVec.ofNat 32 v }
  | 0x0A => { r with cw1 := BitVec.ofNat 32 v }
  | _ => r

/-- The channel registers of draw n from slot `base` on: nothing is known of them (R76). -/
def ChanRegs.drawn (n base : Nat) : ChanRegs where
  cfr := BitVec.ofNat 24 (Config.freeChipValue n base)
  cftw0 := BitVec.ofNat 32 (Config.freeChipValue n (base + 1))
  cpow0 := BitVec.ofNat 16 (Config.freeChipValue n (base + 2))
  acr := BitVec.ofNat 24 (Config.freeChipValue n (base + 3))
  lsrr := BitVec.ofNat 16 (Config.freeChipValue n (base + 4))
  rdw := BitVec.ofNat 32 (Config.freeChipValue n (base + 5))
  fdw := BitVec.ofNat 32 (Config.freeChipValue n (base + 6))
  cw1 := BitVec.ofNat 32 (Config.freeChipValue n (base + 7))

/-- The observer with every register at an unspecified value of draw n (R76, R332). -/
def Chip.drawn (n : Nat) : Chip where
  pend := #v[.drawn n 0, .drawn n 8, .drawn n 16, .drawn n 24]
  act := #v[.drawn n 32, .drawn n 40, .drawn n 48, .drawn n 56]
  p1 := BitVec.ofNat 24 (Config.freeChipValue n 64)
  a1 := BitVec.ofNat 24 (Config.freeChipValue n 65)
  ocsr := BitVec.ofNat 8 (Config.freeChipValue n 66)
  pcsr := BitVec.ofNat 8 (Config.freeChipValue n 67)
  nextDraw := n + 1

/-- The register a sweep of kind k sweeps (R220's start register), at value v. -/
def ChanRegs.setSwept (r : ChanRegs) (k : SweepKind) (v : Nat) : ChanRegs :=
  match k with
  | .freq => { r with cftw0 := BitVec.ofNat 32 v }
  | .phase => { r with cpow0 := BitVec.ofNat 16 v }
  | .amp => { r with acr := BitVec.ofNat 24 v }

/-- Channel c's active swept register at value v, every other register as it is. -/
def Chip.setSwept (chip : Chip) (k : SweepKind) (c : Chan) (v : Nat) : Chip :=
  { chip with act := chip.act.set c.val ((chip.act[c.val]).setSwept k v) }

/-- The observer after a sweep of kind k on channel c with a hold of zero: the swept register's active value is any value
(D62, R230, R348), a free draw; the pending value stays. DEDUCED, safe in the value: log 12. -/
def Chip.zeroDwell (chip : Chip) (k : SweepKind) (c : Chan) : Chip :=
  { chip.setSwept k c (Config.freeChipValue chip.nextDraw 0) with nextDraw := chip.nextDraw + 1 }

/-- The routing of a channel-register frame: P[c][addr] <- v for each channel c with OCSR[4+c] = 1 (R73). -/
def Chip.routeFrame (chip : Chip) (addr : Byte) (v : Nat) : Vector ChanRegs 4 :=
  let upd (c : Chan) : ChanRegs :=
    if chip.ocsr.getLsbD (4 + c.val) then (chip.pend[c.val]).write addr v else chip.pend[c.val]
  #v[upd 0, upd 1, upd 2, upd 3]

/-- The observer on FRAME(addr, payload) (R73). -/
def Chip.onFrame (csrBuffered : Bool) (chip : Chip) (addr : Byte) (payload : List Byte) : Chip :=
  let v := payloadValue payload
  if addr = addrCsr then
    if csrBuffered then { chip with pcsr := BitVec.ofNat 8 v } else { chip with ocsr := BitVec.ofNat 8 v }
  else if addr = addrFr1 then { chip with p1 := BitVec.ofNat 24 v }
  else { chip with pend := chip.routeFrame addr v }

/-- The observer on UPDATE (R74): the pending registers become active, all together. -/
def Chip.onUpdate (csrBuffered : Bool) (chip : Chip) : Chip :=
  { chip with
    act := chip.pend
    a1 := chip.p1
    ocsr := if csrBuffered then chip.pcsr else chip.ocsr }

/-- The observer on one event (R73, R74, R76, R78). -/
def Chip.observe (csrBuffered : Bool) (chip : Chip) (e : Event) : Chip :=
  match e with
  | .frame addr payload => chip.onFrame csrBuffered addr payload
  | .update => chip.onUpdate csrBuffered
  | .reset _ => Chip.drawn chip.nextDraw
  | .gate _ _ => chip
  | .delay _ => chip

/-- The observer on a list of events, in order (R70). -/
def Chip.observeAll (csrBuffered : Bool) (chip : Chip) (es : List Event) : Chip :=
  es.foldl (Chip.observe csrBuffered) chip

/-- The state visible on channel c's output: A[c] together with A1 (R77). -/
def Chip.visible (chip : Chip) (c : Chan) : ChanRegs × BitVec 24 := (chip.act[c.val], chip.a1)

end Sys2Proof.Machine
end

