-- ==== Sys2Proof/Machine/State.lean ====
section
/-! DEFINITION. The block's architectural state (R20), the command stream it reads (R60), the parameters of the instance
(R6, R38) and the observer of its trace (R72), as plain data; the reasons a step stops; and the state after reset (R45). -/

namespace Sys2Proof.Machine

/-- status: the block's only condition flag (R28). -/
inductive Status where
  | ok
  | invalidParameter
  deriving DecidableEq, Repr

/-- A stepper automaton's state (R34). -/
inductive Latch where
  | armed
  | fired
  deriving DecidableEq, Repr

/-- The context of a sweep: its channel and its hold in milliseconds (R30). `kind` is the model's own field: only the
observer's rule for a zero hold reads it (D62, log 12). -/
structure SweepCtx where
  ch   : Chan
  hold : Word
  kind : SweepKind
  deriving DecidableEq, Repr

/-- The SweepController state (R30). -/
inductive Sweep where
  | idle
  | configured (ctx : SweepCtx)
  | running (ctx : SweepCtx)
  deriving DecidableEq, Repr

/-- A stepper channel's state beside its table (R32 to R34). -/
structure Stepper where
  /-- tlen (R32): the number of valid entries, 0..100. -/
  tlen : Nat
  /-- tkind (R32): the K of the last TLOAD. -/
  tkind : Kind
  /-- cursor (R33): an integer in [-1, 99]. -/
  cursor : Int
  /-- stepLatch (R34). -/
  stepLatch : Latch
  /-- resetLatch (R34). -/
  resetLatch : Latch
  deriving DecidableEq, Repr

/-- The state of the machine. -/
structure State where
  /-- The instance's parameters (R6); no command changes them (R38). -/
  cfg : Config.Params
  /-- The command stream (R60), which the block only reads and the host extends (R316). -/
  stream : List Word
  /-- cp (R21). -/
  cp : Nat
  /-- baseClk (R22). -/
  baseClk : BitVec 32
  /-- clk (R23). -/
  clk : BitVec 64
  /-- csr, the shadow of the chip's channel-select register (R24). -/
  csr : Byte
  /-- lastFreq (R26). -/
  lastFreq : Option (Kind × Word)
  /-- lastPhase (R27). -/
  lastPhase : Option (Kind × Word)
  /-- status (R28). -/
  status : Status
  /-- fault (R29). -/
  fault : Option FaultKind
  /-- sweep (R30). -/
  sweep : Sweep
  /-- gate[0..3] (R31). -/
  gate : Vector Level 4
  /-- table[0..3][0..99] (R32, R61). -/
  mem : Memory
  /-- tlen, tkind, cursor, stepLatch and resetLatch of channels 0..3 (R32 to R34). -/
  steppers : Vector Stepper 4
  /-- trace (R35). -/
  trace : List Event
  /-- The observer's registers (R72). -/
  chip : Chip
  deriving DecidableEq, Repr

/-- Why a step has no next state. The spec's own fault kinds are not among these: raising one is a next state that records
it (R302), and the stops below are what the spec says of the states after. DEDUCED, safe: log 4. -/
inductive Fault where
  /-- `step` in a state whose `fault` is k: "While `fault` is not none, the block takes no step" (R29, R302). Safe. -/
  | halted (k : FaultKind)
  /-- `step` in a final state of R317: the run has ended and the block waits for the host to append words. No error. Safe:
DESIGN CHOICE, log 7. -/
  | endOfStream
  /-- POLL whose action reads a table entry that nothing has written: R45 "no value, not readable". No state a run reaches
  does so, since R32 and R261 write every entry below tlen. Safe. -/
  | tableEntryUnwritten
  deriving DecidableEq, Repr

/-- Why a step has no meaning. -/
inductive Refusal where
  /-- `exec` on an instruction that has no meaning yet; no arm answers so. Safe. -/
  | notModelled (mnemonic : String)
  deriving DecidableEq, Repr

/-- CURSOR_INIT as an integer (R33). -/
def cursorInitValue : Config.CursorInit → Int
  | .minusOne => -1
  | .zero => 0

/-- An unconfigured stepper channel (R45). -/
def Stepper.reset (cfg : Config.Params) : Stepper where
  tlen := 0
  tkind := .domain
  cursor := cursorInitValue cfg.cursorInit
  stepLatch := .armed
  resetLatch := .armed

/-- The state after block reset (R45) of the instance `cfg`, with an empty stream and the observer at the free values of
draw 0 (R332). -/
def State.resetOf (cfg : Config.Params) : State where
  cfg := cfg
  stream := []
  cp := 0
  baseClk := 0#32
  clk := 0#64
  csr := cfg.csrShadowReset
  lastFreq := none
  lastPhase := none
  status := .ok
  fault := none
  sweep := .idle
  gate := #v[.low, .low, .low, .low]
  mem := []
  steppers := #v[.reset cfg, .reset cfg, .reset cfg, .reset cfg]
  trace := []
  chip := Chip.drawn 0

/-- The machine right after reset, with the default parameters of R6. DESIGN CHOICE, unsafe where it is read as every
instance: log 2. -/
def State.reset : State := State.resetOf Config.defaults

end Sys2Proof.Machine
end

