-- ==== Sys2Proof/Machine/Flags.lean ====
section
/-! DEFINITION. The status flag and its code (R28), the fault codes (R303) and the validation predicates of R155, used
only when V = 1 (R102). -/

namespace Sys2Proof.Machine

/-- The number of a status (R28). -/
def Status.code : Status → Nat
  | .ok => 0
  | .invalidParameter => 1

/-- `fault`'s code of R303; 0 where there is none. -/
def faultCode : Option FaultKind → Nat
  | none => 0
  | some .reservedOpcode => 1
  | some .reservedField => 2
  | some .truncatedCommand => 3
  | some .tableLength => 4
  | some .clockZero => 5
  | some .stepperUnconfigured => 6

/-- `freqInvalid(K, w, clk)` of R155: "exceeds" is strict (D21). -/
def freqInvalid (cfg : Config.Params) (k : Kind) (w clk : Nat) : Bool :=
  match k with
  | .domain => decide (w * cfg.nyqDen > clk * cfg.nyqNum)
  | .raw => decide (w * cfg.nyqDen > 2 ^ 32 * cfg.nyqNum)

/-- `ampInvalid(K, w)` of R155, on the word before truncation. -/
def ampInvalid (cfg : Config.Params) (k : Kind) (w : Nat) : Bool :=
  decide (ampWord cfg.ampFullScale k w > 1023)

/-- `ratioInvalid(x)` of R155, before clamping. -/
def ratioInvalid (x : Byte) : Bool := decide (x.toNat > Config.pllMax)

end Sys2Proof.Machine
end

