-- ==== Sys2Proof/Machine/Ops.lean ====
section
/-! DEFINITION. The shared operations of the commands: emitting events, completing and reporting, raising a fault, the csr
update, the table memory, the stepper channels, and reading the command stream. -/

namespace Sys2Proof.Machine

/-- What a command answers. -/
abbrev Result := Host.Outcome State Fault Refusal

/-- Runs `f` on the state `r` answers, and passes a stop on. -/
def andThen (r : Result) (f : State → Result) : Result :=
  match r with
  | .next s => f s
  | .fault k => .fault k
  | .refused k => .refused k

/-! ## Events (R9 `emit`, R35, R70) -/

/-- Appends events to the trace in order, and shows them to the observer. -/
def State.emit (s : State) (es : List Event) : State :=
  { s with
    trace := s.trace ++ es
    chip := s.chip.observeAll s.cfg.csrBuffered es }

/-! ## The three ends of a command (R300) -/

/-- A command with n operand words completes: status OK, cp past the command (R28, R37, R300). -/
def State.complete (s : State) (n : Nat) : State :=
  { s with status := .ok, cp := s.cp + 1 + n }

/-- InvalidParameter is reported for a command with n operand words: status and cp only (R301). -/
def State.report (s : State) (n : Nat) : State :=
  { s with status := .invalidParameter, cp := s.cp + 1 + n }

/-- `raise Fault(k)`: the fault is recorded and cp stays at the header (R302, R307). The block has no handler to enter;
the way back is block reset (R308), `hostReset`. -/
def State.raise (s : State) (k : FaultKind) : State :=
  { s with fault := some k }

/-- A command that faults with kind k: the next state records it (R302). -/
def raiseFault (k : FaultKind) (s : State) : Result := .next (s.raise k)

/-! ## Fields -/

/-- SETCLK's write of both clocks (R180). -/
def State.setClock (s : State) (hz : Word) : State :=
  { s with baseClk := hz, clk := hz.setWidth 64 }

/-- INIT's clock update by the clamped ratio r, in the instance's CLOCK_MODE (R181). DEDUCED, unsafe for the real
chip's clock at ratios 1 to 3: log 20. -/
def State.scaleClock (s : State) (r : Nat) : State :=
  { s with
    clk := match s.cfg.clockMode with
      | .compound => BitVec.ofNat 64 (s.clk.toNat * r)
      | .idempotent => BitVec.ofNat 64 (s.baseClk.toNat * r) }

/-- Emits the CSR frame of the merge of `mask` and makes it the shadow's value (R24, R182, R223, R265). -/
def State.selectMask (s : State) (mask : BitVec 4) : State :=
  let c' := csrMerge s.csr mask
  { s.emit [.frame addrCsr [c']] with csr := c' }

/-- Records the last commanded frequency (R26). -/
def State.setLastFreq (s : State) (k : Kind) (w : Word) : State :=
  { s with lastFreq := some (k, w) }

/-- Records the last commanded phase (R27). -/
def State.setLastPhase (s : State) (k : Kind) (w : Word) : State :=
  { s with lastPhase := some (k, w) }

/-- Changes the SweepController state (R30). -/
def State.setSweep (s : State) (w : Sweep) : State :=
  { s with sweep := w }

/-- The observer at the end of a sweep's hold: a hold of zero leaves the swept register's active value free (D62, R348). -/
def State.endDwell (s : State) (ctx : SweepCtx) : State :=
  { s with chip := if ctx.hold = 0#32 then s.chip.zeroDwell ctx.kind ctx.ch else s.chip }

/-- Drives gate line c to a level: the event, then the field (R31, R224, R225). -/
def State.driveGate (s : State) (c : Chan) (l : Level) : State :=
  { s.emit [.gate c l] with gate := s.gate.set c.val l }

/-! ## Stepper channels and their table (R32 to R34, R61) -/

/-- Channel c's stepper state (R260). -/
def State.stepper (s : State) (c : Chan) : Stepper := s.steppers[c.val]

/-- Replaces channel c's stepper state, and no other's (R260). -/
def State.setStepper (s : State) (c : Chan) (t : Stepper) : State :=
  { s with steppers := s.steppers.set c.val t }

/-- `MemRead((c, i), 1)` (R61). -/
def State.tableRead (s : State) (c : Chan) (i : Nat) : Option Word := s.mem.read (tableAddr c i)

/-- The loop `MemWrite((c, i), 1, w[i])` of R261, from entry 0 on. -/
def State.tableWrite (s : State) (c : Chan) (entries : List Word) : State :=
  { s with mem := s.mem.writeFrom (tableAddr c 0) entries }

/-! ## The command stream (R60, R111) -/

/-- `CmdWord(i)` of R9; none past the end of the stream. -/
def State.cmdWord (s : State) (i : Nat) : Option Word := s.stream[i]?

/-- The decode procedure on the stream at cp (R111). -/
def State.fetch (s : State) : Except FaultKind Instr := decode (s.stream.drop s.cp)

/-- A final state (R317): no fault, no sweep under way, cp at the end of the stream. -/
def State.final (s : State) : Bool :=
  decide (s.fault = none ∧ s.sweep = .idle ∧ s.cp = s.stream.length)

/-- Places command words at cp, what stood there and after it replaced, in a block that is ready to decode. Words before
cp that the stream does not have are zeros. DESIGN CHOICE, safe: log 5. -/
def State.placeWords (s : State) (ws : List Word) : State :=
  { s with
    stream := s.stream.take s.cp ++ List.replicate (s.cp - s.stream.length) 0#32 ++ ws
    fault := none
    sweep := .idle }

end Sys2Proof.Machine
end

