-- ==== Sys2Proof/Machine/Operands.lean ====
section
/-! DEFINITION. The operand forms of the commands: the register words and frames that a sweep's operands stand for, one
set of functions per kind (R220, R221), and which of them validation looks at (R222). -/

namespace Sys2Proof.Machine

/-- A sweep's kind-specific frames (R220): the start frame, the end word's bytes and the delta words' bytes. -/
structure SweepWords where
  startFrame : Event
  stopBytes  : List Byte
  riseBytes  : List Byte
  fallBytes  : List Byte
  deriving DecidableEq, Repr

/-- The freq row of R220; none where a Hz conversion meets clk = 0 (R141, R223). -/
def freqSweepWords (k : Kind) (p : SweepOps) (clk : Nat) : Option SweepWords :=
  match ftwOf k p.start.toNat clk, ftwOf k p.stop.toNat clk,
      ftwOf k p.rdelta.toNat clk, ftwOf k p.fdelta.toNat clk with
  | some a, some b, some r, some f =>
    some { startFrame := .frame addrFtw (ftwBytes a), stopBytes := ftwBytes b
           riseBytes := ftwBytes r, fallBytes := ftwBytes f }
  | _, _, _, _ => none

/-- The phase row of R220: the start right-justified, the rest left-justified (R149, D36). -/
def phaseSweepWords (k : Kind) (p : SweepOps) : SweepWords where
  startFrame := .frame addrPow (powBytes (powOf k p.start.toNat))
  stopBytes := phaseSweepBytes (powOf k p.stop.toNat)
  riseBytes := phaseSweepBytes (powOf k p.rdelta.toNat)
  fallBytes := phaseSweepBytes (powOf k p.fdelta.toNat)

/-- The amp row of R220. -/
def ampSweepWords (fullScale : Nat) (k : Kind) (p : SweepOps) : SweepWords where
  startFrame := .frame addrAcr (ampBytes (acw fullScale k p.start.toNat))
  stopBytes := ampEndBytes (acw fullScale k p.stop.toNat)
  riseBytes := ampDeltaBytes (acw fullScale k p.rdelta.toNat)
  fallBytes := ampDeltaBytes (acw fullScale k p.fdelta.toNat)

/-- SWPF's check of R222: the start and the end frequency. -/
def freqSweepInvalid (cfg : Config.Params) (k : Kind) (p : SweepOps) (clk : Nat) : Bool :=
  freqInvalid cfg k p.start.toNat clk || freqInvalid cfg k p.stop.toNat clk

/-- SWPA's check of R222: the start and the end amplitude. -/
def ampSweepInvalid (cfg : Config.Params) (k : Kind) (p : SweepOps) : Bool :=
  ampInvalid cfg k p.start.toNat || ampInvalid cfg k p.stop.toNat

end Sys2Proof.Machine
end

