-- ==== Sys2Proof/Machine/Driver.lean ====
section
/-! DEFINITION. The DeviceDriver commands (R180 to R186): SETCLK, INIT, SELECT, SETF, SETP, SETA, COMMIT. -/

namespace Sys2Proof.Machine

/-- SETCLK (R180). -/
def execSetclk (hz : Word) (s : State) : Result :=
  .next ((s.setClock hz).complete 1)

/-- INIT (R181): the reset pulse, FR1 with the clamped ratio, UPDATE, then the clock. -/
def execInit (v : Bool) (ratio : Byte) (s : State) : Result :=
  if v && ratioInvalid ratio then .next (s.report 0)
  else
    let r := pllRatio ratio
    .next (((s.emit [.reset s.cfg.resetPulseMs, .frame addrFr1 (fr1Bytes s.cfg r), .update]).scaleClock r.val).complete 0)

/-- SELECT (R182): the merged CSR frame, no UPDATE. -/
def execSelect (mask : BitVec 4) (s : State) : Result :=
  .next ((s.selectMask mask).complete 0)

/-- SETF (R183): the FTW frame and UPDATE. -/
def execSetf (v : Bool) (k : Kind) (value : Word) (s : State) : Result :=
  if v && freqInvalid s.cfg k value.toNat s.clk.toNat then .next (s.report 1)
  else
    match ftwOf k value.toNat s.clk.toNat with
    | none => raiseFault .clockZero s
    | some x => .next (((s.emit [.frame addrFtw (ftwBytes x), .update]).setLastFreq k value).complete 1)

/-- SETP (R184): the POW frame, no UPDATE. -/
def execSetp (k : Kind) (value : Word) (s : State) : Result :=
  .next (((s.emit [.frame addrPow (powBytes (powOf k value.toNat))]).setLastPhase k value).complete 1)

/-- SETA (R185): the amplitude frame and UPDATE. -/
def execSeta (v : Bool) (k : Kind) (value : Word) (s : State) : Result :=
  if v && ampInvalid s.cfg k value.toNat then .next (s.report 1)
  else .next ((s.emit [.frame addrAcr (ampBytes (acw s.cfg.ampFullScale k value.toNat)), .update]).complete 1)

/-- COMMIT (R186). -/
def execCommit (s : State) : Result :=
  .next ((s.emit [.update]).complete 0)

end Sys2Proof.Machine
end

