-- ==== Sys2Proof/Machine/Stepper.lean ====
section
/-! DEFINITION. The ChannelStepper (R260 to R267): TLOAD, POLL, the step and reset automata and the program action. -/

namespace Sys2Proof.Machine

/-- TLOAD (R261): the entries, the length and kind, the cursor at CURSOR_INIT, both latches Armed. The length was checked
at decode (R111); a term no encoding stands for takes the same TableLength. DESIGN CHOICE, safe: log 11. -/
def execTload (ch : Chan) (k : Kind) (entries : List Word) (s : State) : Result :=
  if entries.length = 0 ∨ entries.length > Config.tableMax then raiseFault .tableLength s
  else
    .next (((s.tableWrite ch entries).setStepper ch
      { tlen := entries.length, tkind := k, cursor := cursorInitValue s.cfg.cursorInit
        stepLatch := .armed, resetLatch := .armed }).complete entries.length)

/-- Whether the step automaton's action will fire on this sample (R262, R263). -/
def stepFires (t : Stepper) (step : Level) : Bool :=
  decide (step = .high ∧ t.stepLatch = .armed ∧ t.cursor < (t.tlen : Int) - 1)

/-- Whether the reset automaton's action will fire on this sample (R262, R264). -/
def resetFires (t : Stepper) (rst : Level) : Bool :=
  decide (rst = .high ∧ t.resetLatch = .armed)

/-- The program action of R265 for entry i of channel c. None where the entry has no value (R45) or its conversion has none
(R141); R262 excludes the second before any effect. -/
def programAction (c : Chan) (i : Nat) (s : State) : Option State :=
  match s.tableRead c i with
  | none => none
  | some e =>
    match ftwOf (s.stepper c).tkind e.toNat s.clk.toNat with
    | none => none
    | some x =>
      some (((s.selectMask (chanMask c)).emit [.frame addrFtw (ftwBytes x), .update]).setLastFreq (s.stepper c).tkind e)

/-- Sets channel c's step latch (R263). -/
def State.setStepLatch (s : State) (c : Chan) (l : Latch) : State :=
  s.setStepper c { s.stepper c with stepLatch := l }

/-- Sets channel c's reset latch (R264). -/
def State.setResetLatch (s : State) (c : Chan) (l : Latch) : State :=
  s.setStepper c { s.stepper c with resetLatch := l }

/-- Sets channel c's cursor (R263, R264). -/
def State.setCursor (s : State) (c : Chan) (i : Int) : State :=
  s.setStepper c { s.stepper c with cursor := i }

/-- The step automaton of R263 on a sampled level; at exhaustion the latch still goes Fired (D29). -/
def stepAutomaton (c : Chan) (step : Level) (s : State) : Option State :=
  let t := s.stepper c
  match step, t.stepLatch with
  | .low, _ => some (s.setStepLatch c .armed)
  | .high, .armed =>
    if t.cursor < (t.tlen : Int) - 1 then
      (programAction c (t.cursor + 1).toNat (s.setCursor c (t.cursor + 1))).map (·.setStepLatch c .fired)
    else some (s.setStepLatch c .fired)
  | .high, .fired => some s

/-- The reset automaton of R264 on a sampled level. -/
def resetAutomaton (c : Chan) (rst : Level) (s : State) : Option State :=
  match rst, (s.stepper c).resetLatch with
  | .low, _ => some (s.setResetLatch c .armed)
  | .high, .armed => (programAction c 0 (s.setCursor c 0)).map (·.setResetLatch c .fired)
  | .high, .fired => some s

/-- POLL (R262): the two checks before any effect, then the step automaton, then the reset automaton (D30). -/
def execPoll (ch : Chan) (step rst : Level) (s : State) : Result :=
  let t := s.stepper ch
  if t.tlen = 0 then raiseFault .stepperUnconfigured s
  else if (stepFires t step || resetFires t rst) && decide (t.tkind = .domain ∧ s.clk = 0#64) then raiseFault .clockZero s
  else
    match (stepAutomaton ch step s).bind (resetAutomaton ch rst) with
    | none => .fault .tableEntryUnwritten
    | some s' => .next (s'.complete 0)

end Sys2Proof.Machine
end

