-- ==== Sys2Proof/Machine/Sweep.lean ====
section
/-! DEFINITION. The SweepController (R220 to R230): the three commands take the FSM from Idle to Configured; the two steps
after it, which decode nothing (R229), take it to Running and back to Idle. DEDUCED, safe: log 9. -/

namespace Sys2Proof.Machine

/-- R223's frames after the CSR frame, in its order: CFR, start, end, rising delta, falling delta, rates. -/
def sweepFrames (cfg : Config.Params) (kind : SweepKind) (p : SweepOps) (w : SweepWords) : List Event :=
  [.frame addrCfr (cfrBytes cfg kind), w.startFrame, .frame addrCw1 w.stopBytes, .frame addrRdw w.riseBytes,
   .frame addrFdw w.fallBytes, .frame addrLsrr (lsrrBytes p.rrate p.frate)]

/-- Idle → Configured (R223): the sweep's channel selected and its words written, nothing committed, cp still at the
header. -/
def configureSweep (kind : SweepKind) (ch : Chan) (p : SweepOps) (w : SweepWords) (s : State) : State :=
  ((s.selectMask (chanMask ch)).emit (sweepFrames s.cfg kind p w)).setSweep (.configured { ch := ch, hold := p.hold, kind := kind })

/-- Configured → Running (R224). -/
def startSweep (ctx : SweepCtx) (s : State) : State :=
  ((s.emit [.update]).driveGate ctx.ch .high).setSweep (.running ctx)

/-- Running → Idle (R225): the command completes here, cp past its seven words; after a zero hold
the observer knows the swept register no more (R230). -/
def finishSweep (ctx : SweepCtx) (s : State) : State :=
  ((((s.emit [.delay ctx.hold.toNat]).driveGate ctx.ch .low).endDwell ctx).setSweep .idle).complete 6

/-- SWPF (R226): R222's check, then R223. -/
def execSwpf (ch : Chan) (v : Bool) (k : Kind) (p : SweepOps) (s : State) : Result :=
  if v && freqSweepInvalid s.cfg k p s.clk.toNat then .next (s.report 6)
  else
    match freqSweepWords k p s.clk.toNat with
    | none => raiseFault .clockZero s
    | some w => .next (configureSweep .freq ch p w s)

/-- SWPP (R227): R223, nothing to check. -/
def execSwpp (ch : Chan) (k : Kind) (p : SweepOps) (s : State) : Result :=
  .next (configureSweep .phase ch p (phaseSweepWords k p) s)

/-- SWPA (R228): R222's check, then R223. -/
def execSwpa (ch : Chan) (v : Bool) (k : Kind) (p : SweepOps) (s : State) : Result :=
  if v && ampSweepInvalid s.cfg k p then .next (s.report 6)
  else .next (configureSweep .amp ch p (ampSweepWords s.cfg.ampFullScale k p) s)

end Sys2Proof.Machine
end

