-- ==== Sys2Proof/Machine/Dispatch.lean ====
section
/-! DEFINITION. The meaning of each instruction, one arm per row of R107. -/

namespace Sys2Proof.Machine

def exec (i : Instr) (s : State) : Host.Outcome State Fault Refusal :=
  match i with
  -- DeviceDriver (R180 to R186)
  | .setclk hz => Sys2Proof.Machine.execSetclk hz s
  | .init v ratio => Sys2Proof.Machine.execInit v ratio s
  | .select mask => Sys2Proof.Machine.execSelect mask s
  | .setf v k value => Sys2Proof.Machine.execSetf v k value s
  | .setp k value => Sys2Proof.Machine.execSetp k value s
  | .seta v k value => Sys2Proof.Machine.execSeta v k value s
  | .commit => Sys2Proof.Machine.execCommit s
  -- SweepController (R226 to R228)
  | .swpf ch v k ops => Sys2Proof.Machine.execSwpf ch v k ops s
  | .swpp ch k ops => Sys2Proof.Machine.execSwpp ch k ops s
  | .swpa ch v k ops => Sys2Proof.Machine.execSwpa ch v k ops s
  -- ChannelStepper (R261, R262)
  | .tload ch k entries => Sys2Proof.Machine.execTload ch k entries s
  | .poll ch step rst => Sys2Proof.Machine.execPoll ch step rst s

end Sys2Proof.Machine
end

