-- ==== Sys2Proof/Machine/Step.lean ====
section
/-! DEFINITION. One step of the block: the next FSM transition while a sweep is under way (R229), else one command decoded
at cp (R111). A faulted block has no step (R302), nor has a final state (R317). DEDUCED, one agent: log 18. -/

namespace Sys2Proof.Machine

/-- One step. -/
def step (s : State) : Host.Outcome State Fault Refusal :=
  match s.fault with
  | some k => .fault (.halted k)
  | none =>
    match s.sweep with
    | .configured ctx => .next (startSweep ctx s)
    | .running ctx => .next (finishSweep ctx s)
    | .idle =>
      if s.final then .fault .endOfStream
      else
        match s.fetch with
        | .error k => raiseFault k s
        | .ok i => exec i s

/-- `s` with one instruction, numbered as spec/opcode_table.json numbers its bits, placed where the next step decodes:
at cp, in a block with no fault and no sweep under way. -/
def State.withFetchWord (s : State) (nbits w : Nat) : State := s.placeWords (tableWords nbits w)

end Sys2Proof.Machine
end

