-- ==== Sys2Proof/Machine/Assembler.lean ====
section
/-! DEFINITION. The assembler of R120 to R127: the text of a program, its lines, and the commands they stand for, the
pseudo-instructions expanded. A line the rules refuse gives none. DESIGN CHOICE, safe: log 15. -/

namespace Sys2Proof.Machine

/-- The mnemonics of R121 and the pseudo-instructions of R124 to R127. -/
inductive Mnem where
  | setclk | init | select | setf | setp | seta | commit | swpf | swpp | swpa | tload | poll
  | setfp | selch | edge | redge | setpc
  deriving DecidableEq, Repr

/-- An operand as written: a number, or TLOAD's list of numbers (R121). -/
inductive AsmArg where
  | num (n : Nat)
  | list (ns : List Nat)
  deriving DecidableEq, Repr

/-- A line of a program (R120): `v` and `w` say that the qualifiers .V and .W stand on the mnemonic (R123). -/
structure AsmLine where
  mnem : Mnem
  v    : Bool
  w    : Bool
  args : List AsmArg
  deriving DecidableEq, Repr

/-! ## Lines to commands -/

/-- The mnemonics R121 lets .V stand on. -/
def Mnem.allowsV : Mnem → Bool
  | .init | .setf | .seta | .swpf | .swpa => true
  | .setclk | .select | .setp | .commit | .swpp | .tload | .poll => false
  | .setfp | .selch | .edge | .redge | .setpc => false

/-- The mnemonics R121 and R124 let .W stand on. -/
def Mnem.allowsW : Mnem → Bool
  | .setf | .setp | .seta | .swpf | .swpp | .swpa | .tload | .setfp => true
  | .setclk | .init | .select | .commit | .poll | .selch | .edge | .redge | .setpc => false

/-- A number as a field of n bits; none where it does not fit. -/
def asmField (n x : Nat) : Option (BitVec n) := if x < 2 ^ n then some (BitVec.ofNat n x) else none

/-- A channel operand, 0..3. -/
def asmChan (x : Nat) : Option Chan := if h : x < 4 then some ⟨x, h⟩ else none

/-- A sampled level, 0 or 1. -/
def asmLevel (x : Nat) : Option Level :=
  match x with
  | 0 => some .low
  | 1 => some .high
  | _ => none

/-- A sweep's operands as R121 lists them. -/
def asmSweepOps (start stop rdelta fdelta rrate frate hold : Nat) : Option SweepOps := do
  let a ← asmField 32 start
  let b ← asmField 32 stop
  let c ← asmField 32 rdelta
  let d ← asmField 32 fdelta
  let r ← asmField 8 rrate
  let f ← asmField 8 frate
  let h ← asmField 32 hold
  some { start := a, stop := b, rdelta := c, fdelta := d, rrate := r, frate := f, hold := h }

/-- The commands of a mnemonic with its operands, V bit and kind (R121, R124 to R127). -/
def asmCommands (m : Mnem) (v : Bool) (k : Kind) (args : List AsmArg) : Option (List Instr) :=
  match m, args with
  | .setclk, [.num x] => do let x ← asmField 32 x; some [.setclk x]
  | .init, [.num x] => do let x ← asmField 8 x; some [.init v x]
  | .select, [.num x] => do let x ← asmField 4 x; some [.select x]
  | .setf, [.num x] => do let x ← asmField 32 x; some [.setf v k x]
  | .setp, [.num x] => do let x ← asmField 32 x; some [.setp k x]
  | .seta, [.num x] => do let x ← asmField 32 x; some [.seta v k x]
  | .commit, [] => some [.commit]
  | .swpf, [.num c, .num a, .num b, .num rd, .num fd, .num rr, .num fr, .num h] => do
    let c ← asmChan c; let p ← asmSweepOps a b rd fd rr fr h; some [.swpf c v k p]
  | .swpp, [.num c, .num a, .num b, .num rd, .num fd, .num rr, .num fr, .num h] => do
    let c ← asmChan c; let p ← asmSweepOps a b rd fd rr fr h; some [.swpp c k p]
  | .swpa, [.num c, .num a, .num b, .num rd, .num fd, .num rr, .num fr, .num h] => do
    let c ← asmChan c; let p ← asmSweepOps a b rd fd rr fr h; some [.swpa c v k p]
  | .tload, [.num c, .list es] => do
    let c ← asmChan c; let es ← es.mapM (asmField 32); some [.tload c k es]
  | .poll, [.num c, .num st, .num rs] => do
    let c ← asmChan c; let st ← asmLevel st; let rs ← asmLevel rs; some [.poll c st rs]
  | .setfp, [.num f, .num p] => do
    let f ← asmField 32 f; let p ← asmField 32 p; some [.setp k p, .setf false k f]
  | .selch, [.num c] => do let c ← asmChan c; some [.select (chanMask c)]
  | .edge, [.num c] => do let c ← asmChan c; some [.poll c .low .low, .poll c .high .low]
  | .redge, [.num c] => do let c ← asmChan c; some [.poll c .low .low, .poll c .low .high]
  | .setpc, [.num p] => do let p ← asmField 32 p; some [.setp k p, .commit]
  | _, _ => none

/-- The commands of a line; none for a qualifier the mnemonic does not have (R123), and for a command no encoding stands
for. Without .W the operands are domain values, with it raw words (R123). -/
def assembleLine (l : AsmLine) : Option (List Instr) :=
  if (l.v && !l.mnem.allowsV) || (l.w && !l.mnem.allowsW) then none
  else
    match asmCommands l.mnem l.v (if l.w then .raw else .domain) l.args with
    | some is => if is.all Instr.wf then some is else none
    | none => none

/-! ## Numbers and literal helpers (R120, R122) -/

/-- A digit's value in a base up to 16. -/
def digitValue (c : Char) : Option Nat :=
  if '0' ≤ c ∧ c ≤ '9' then some (c.toNat - '0'.toNat)
  else if 'a' ≤ c ∧ c ≤ 'f' then some (c.toNat - 'a'.toNat + 10)
  else if 'A' ≤ c ∧ c ≤ 'F' then some (c.toNat - 'A'.toNat + 10)
  else none

/-- Digits in a base, after the value `acc` of those before them. -/
def digitsValue (base acc : Nat) : List Char → Option Nat
  | [] => some acc
  | c :: cs =>
    match digitValue c with
    | some d => if d < base then digitsValue base (acc * base + d) cs else none
    | none => none

/-- A number: decimal, 0x hex or 0b binary, with at least one digit (R120). -/
def parseNumber : List Char → Option Nat
  | '0' :: 'x' :: c :: cs => digitsValue 16 0 (c :: cs)
  | '0' :: 'b' :: c :: cs => digitsValue 2 0 (c :: cs)
  | c :: cs => digitsValue 10 0 (c :: cs)
  | [] => none

/-- `deg(x)` and `frac(x)` of R122 for x = num / den: x × 65536, refused where it is no integer or not below 2^32. -/
def q16Literal (num den : Nat) : Option Nat :=
  if den = 0 ∨ num * 65536 % den ≠ 0 then none
  else if num * 65536 / den < 2 ^ 32 then some (num * 65536 / den) else none

/-- The argument of a literal helper: a decimal, with or without a fraction part. -/
def parseDecimal (cs : List Char) : Option (Nat × Nat) :=
  let whole := cs.takeWhile (· ≠ '.')
  match whole, cs.drop whole.length with
  | c :: ws, [] => do let n ← digitsValue 10 0 (c :: ws); some (n, 1)
  | c :: ws, _ :: f :: fs => do
    let n ← digitsValue 10 0 (c :: ws)
    let m ← digitsValue 10 n (f :: fs)
    some (m, 10 ^ (f :: fs).length)
  | _, _ => none

/-! ## Text to lines (R120) -/

/-- A token: a run of characters, or one punctuation mark. -/
abbrev Token := List Char

/-- Splits a line into tokens; `cur` is the token being read, reversed. -/
def lexChars : List Char → Token → List Token
  | [], cur => if cur = [] then [] else [cur.reverse]
  | c :: cs, cur =>
    let done := if cur = [] then [] else [cur.reverse]
    if c = ' ' ∨ c = '\t' ∨ c = '\r' then done ++ lexChars cs []
    else if c = ',' ∨ c = '[' ∨ c = ']' ∨ c = '(' ∨ c = ')' then done ++ [c] :: lexChars cs []
    else lexChars cs (c :: cur)

/-- Splits at a character. -/
def splitAtChar (sep : Char) : List Char → List Char → List (List Char)
  | [], cur => [cur.reverse]
  | c :: cs, cur => if c = sep then cur.reverse :: splitAtChar sep cs [] else splitAtChar sep cs (c :: cur)

/-- Splits tokens into operands at the commas outside brackets; `depth` counts open brackets. -/
def splitArgs : List Token → Nat → List Token → List (List Token)
  | [], _, cur => [cur.reverse]
  | t :: ts, depth, cur =>
    if t = [','] ∧ depth = 0 then cur.reverse :: splitArgs ts 0 []
    else if t = ['['] then splitArgs ts (depth + 1) (t :: cur)
    else if t = [']'] then splitArgs ts (depth - 1) (t :: cur)
    else splitArgs ts depth (t :: cur)

/-- A number operand: a number, or a literal helper (R120, R122). -/
def parseScalar : List Token → Option Nat
  | [t] => parseNumber t
  | [f, ['('], x, [')']] =>
    if f = ['d', 'e', 'g'] ∨ f = ['f', 'r', 'a', 'c'] then do
      let (n, d) ← parseDecimal x
      q16Literal n d
    else none
  | _ => none

/-- An operand: a number, or a bracketed list of numbers (R121). -/
def parseArg : List Token → Option AsmArg
  | ['['] :: rest =>
    if rest.getLast? = some [']'] then do
      let ns ← (splitArgs rest.dropLast 0 []).mapM parseScalar
      some (.list ns)
    else none
  | ts => do let n ← parseScalar ts; some (.num n)

/-- The mnemonics' spellings (R121, R124 to R127). -/
def mnemNames : List (List Char × Mnem) :=
  [("SETCLK".toList, .setclk), ("INIT".toList, .init), ("SELECT".toList, .select), ("SETF".toList, .setf),
   ("SETP".toList, .setp), ("SETA".toList, .seta), ("COMMIT".toList, .commit), ("SWPF".toList, .swpf)] ++
  [("SWPP".toList, .swpp), ("SWPA".toList, .swpa), ("TLOAD".toList, .tload), ("POLL".toList, .poll),
   ("SETFP".toList, .setfp), ("SELCH".toList, .selch), ("EDGE".toList, .edge), ("REDGE".toList, .redge),
   ("SETPC".toList, .setpc)]

/-- The qualifiers of a mnemonic, `[.V][.W]` in that order (R121, R123). -/
def parseQualifiers : List (List Char) → Option (Bool × Bool)
  | [] => some (false, false)
  | [['V']] => some (true, false)
  | [['W']] => some (false, true)
  | [['V'], ['W']] => some (true, true)
  | _ => none

/-- The tokens of a line that is not blank. -/
def parseTokens (head : Token) (rest : List Token) : Option AsmLine :=
  match splitAtChar '.' head [] with
  | [] => none
  | name :: quals => do
    let m ← mnemNames.lookup name
    let (v, w) ← parseQualifiers quals
    let args ← if rest = [] then some [] else (splitArgs rest 0 []).mapM parseArg
    some { mnem := m, v := v, w := w, args := args }

/-- The commands of one line of text: its comment from `;` on dropped (R120), none of it left for a blank line. -/
def assembleText (line : List Char) : Option (List Instr) :=
  match lexChars (line.takeWhile (· ≠ ';')) [] with
  | [] => some []
  | head :: rest => (parseTokens head rest).bind assembleLine

/-- The commands of a program, one line each (R120); none if a line is refused. -/
def assembleProgram (text : List Char) : Option (List Instr) := do
  let lines ← (splitAtChar '\n' text []).mapM assembleText
  some lines.flatten

/-- The command stream of a program (R112). -/
def programWords (is : List Instr) : List Word := is.flatMap encode

end Sys2Proof.Machine
end

