-- ==== Sys2Proof/Machine/HostPort.lean ====
section
/-! DEFINITION. What the host can do to the block and no more (R316): append commands, read fields while no sweep is under
way, and reset the block (R330). A sampled trigger line reaches the block as an appended POLL.
DEDUCED, safe: log 16. -/

namespace Sys2Proof.Machine

/-- The host's moves (R316). -/
inductive HostMove where
  /-- Appends command words to the stream, at any time. -/
  | append (ws : List Word)
  /-- Appends command words carried as bytes, four to a word (D5). -/
  | appendBytes (bs : List Byte)
  /-- Block reset between commands (R330), with the stream the host then supplies. -/
  | blockReset (stream : List Word)
  deriving DecidableEq, Repr

/-- The block after block reset (R45, R330): every field at its reset value, the instance's parameters kept (R38), the
observer's registers unspecified (R332). DEDUCED, unsafe where a host keeps the stream: log 6. -/
def hostReset (stream : List Word) (s : State) : State :=
  { State.resetOf s.cfg with stream := stream, chip := Chip.drawn s.chip.nextDraw }

/-- Appends words to the stream (R316). -/
def hostAppend (ws : List Word) (s : State) : State := { s with stream := s.stream ++ ws }

/-- A move of the host; none where R316 does not let it: a reset inside a sweep (R330), bytes that fill no whole word. -/
def hostMove (m : HostMove) (s : State) : Option State :=
  match m with
  | .append ws => some (hostAppend ws s)
  | .appendBytes bs => if bs.length % 4 = 0 then some (hostAppend (wordsOfBytes bs) s) else none
  | .blockReset stream => if s.sweep = .idle then some (hostReset stream s) else none

/-- What the host can read: the fields of R20's table and no others. A table's entries are those below tlen, the ones R32
and R45 make readable. The observer is no field of R20: the chip is write-only (R60). -/
structure HostView where
  cp        : Nat
  baseClk   : BitVec 32
  clk       : BitVec 64
  csr       : Byte
  lastFreq  : Option (Kind × Word)
  lastPhase : Option (Kind × Word)
  status    : Status
  fault     : Option FaultKind
  sweep     : Sweep
  gate      : Vector Level 4
  table     : Vector (List (Option Word)) 4
  /-- tlen, tkind, cursor, stepLatch and resetLatch of channels 0..3. -/
  steppers  : Vector Stepper 4
  trace     : List Event
  deriving DecidableEq, Repr

/-- Channel c's readable table: its entries below tlen (R32). -/
def State.tableEntries (s : State) (c : Chan) : List (Option Word) :=
  (List.range (s.stepper c).tlen).map (s.tableRead c)

/-- The fields of R20 of a state. -/
def State.hostView (s : State) : HostView where
  cp := s.cp
  baseClk := s.baseClk
  clk := s.clk
  csr := s.csr
  lastFreq := s.lastFreq
  lastPhase := s.lastPhase
  status := s.status
  fault := s.fault
  sweep := s.sweep
  gate := s.gate
  table := #v[s.tableEntries 0, s.tableEntries 1, s.tableEntries 2, s.tableEntries 3]
  steppers := s.steppers
  trace := s.trace

/-- What the host reads: the fields of R20, but only while sweep = Idle (R20, R316). -/
def hostRead (s : State) : Option HostView := if s.sweep = .idle then some s.hostView else none

end Sys2Proof.Machine
end

