-- ==== Sys2Proof/Safety.lean ====
section
/-! DEFINITION. What claims call safe: runs of several steps, a run with no fault, and the invariants of R39, R25, R31, R63
and R67 with what they rest on. -/

namespace Sys2Proof.Machine

/-! ## Runs -/

/-- `k` steps from `s`, ending early at a stop. -/
def runSteps : Nat → State → Result
  | 0, s => .next s
  | k + 1, s => andThen (step s) (runSteps k)

/-- A run of `k` steps that neither stops nor records a fault. -/
def CleanRun (k : Nat) (s : State) : Prop := ∃ t, runSteps k s = .next t ∧ t.fault = none

/-- `n` step edges on channel c, each the samples LOW then HIGH of EDGE (R126), by the meaning of POLL. -/
def stepEdges (c : Chan) : Nat → State → Result
  | 0, s => .next s
  | n + 1, s => andThen (execPoll c .low .low s) fun t => andThen (execPoll c .high .low t) (stepEdges c n)

/-! ## Invariants -/

/-- Channel c's stepper state is inside its ranges, its cursor inside its table (R20, R32, R33, R39), and every entry below
tlen has been written. -/
def StepperOk (s : State) (c : Chan) : Prop :=
  (s.stepper c).tlen ≤ Config.tableMax ∧
  -1 ≤ (s.stepper c).cursor ∧ (s.stepper c).cursor ≤ 99 ∧
  (0 < (s.stepper c).tlen → (s.stepper c).cursor ≤ ((s.stepper c).tlen : Int) - 1) ∧
  ∀ i < (s.stepper c).tlen, (s.tableRead c i).isSome = true

/-- The level a gate line has in each sweep state: HIGH only on the running sweep's channel (R31, R224, R225). -/
def gateWanted (w : Sweep) (c : Chan) : Level :=
  match w with
  | .idle => .low
  | .configured _ => .low
  | .running ctx => if ctx.ch = c then .high else .low

/-- Every gate line has the level its sweep state gives it (R31, R39). -/
def GatesOk (s : State) : Prop := ∀ c : Chan, s.gate[c.val] = gateWanted s.sweep c

/-- csr[2:0] is the reset value's (R25, R39). -/
def CsrLowKept (s : State) : Prop := s.csr &&& 0x07#8 = s.cfg.csrShadowReset &&& 0x07#8

/-- Every event emitted is one that R63 and R64 allow, in a legal configuration (R352). -/
def TraceLegal (s : State) : Prop := s.cfg.legal ∧ ∀ e ∈ s.trace, e.legal = true

/-- cp stands where a whole number of commands from index 0 ends (R37, R67). -/
def OnHeader (s : State) : Prop :=
  s.cp ≤ s.stream.length ∧
  ∃ is : List Instr, (∀ i ∈ is, i.wf = true) ∧ s.stream.take s.cp = is.flatMap encode

/-- The context of a sweep command (R30), with its kind. -/
def sweepCtxOf : Instr → Option SweepCtx
  | .setclk _ => none
  | .init _ _ => none
  | .select _ => none
  | .setf _ _ _ => none
  | .setp _ _ => none
  | .seta _ _ _ => none
  | .commit => none
  | .swpf ch _ _ ops => some { ch := ch, hold := ops.hold, kind := .freq }
  | .swpp ch _ ops => some { ch := ch, hold := ops.hold, kind := .phase }
  | .swpa ch _ _ ops => some { ch := ch, hold := ops.hold, kind := .amp }
  | .tload _ _ _ => none
  | .poll _ _ _ => none

/-- While a sweep is under way, cp is still at its command (R223 to R225). -/
def SweepAtHeader (s : State) : Prop :=
  match s.sweep with
  | .idle => True
  | .configured ctx => ∃ i, s.fetch = .ok i ∧ sweepCtxOf i = some ctx
  | .running ctx => ∃ i, s.fetch = .ok i ∧ sweepCtxOf i = some ctx

/-- A fault is recorded only where no sweep is under way (R304). -/
def FaultOutsideSweep (s : State) : Prop := s.fault = none ∨ s.sweep = .idle

/-- The invariant of the block: R39 and what it rests on. -/
structure Inv (s : State) : Prop where
  memory : s.mem.wf
  steppers : ∀ c : Chan, StepperOk s c
  gates : GatesOk s
  csrLow : CsrLowKept s
  trace : TraceLegal s
  onHeader : OnHeader s
  sweepAtHeader : SweepAtHeader s
  faultOutsideSweep : FaultOutsideSweep s

end Sys2Proof.Machine
end

