-- ==== Sys2Proof/Certificates/Slice0/Obligations.lean ====
section
/-! DEFINITION. The statements about the model, for the provers. Payload bytes, register words and conditions are written out
here from the rules' own formulas, not through the model's codec, where a rule gives a formula. -/

open Sys2Proof Sys2Proof.Machine

/-! ## Encoding (30_encoding.md) -/

/-- R101, R104 to R107: the decoder reads every well-formed command back from its words, whatever follows them. -/
def Obligations.DecodeOfEncode : Prop :=
  ∀ (i : Instr) (rest : List Word), i.wf = true → decode (encode i ++ rest) = .ok i

/-- R107, R109, R111: a decoded command is well formed and the stream begins with exactly its words. -/
def Obligations.EncodeOfDecode : Prop :=
  ∀ (ws : List Word) (i : Instr), decode ws = .ok i →
    i.wf = true ∧ ws = encode i ++ ws.drop (1 + i.operandCount)

/-- R107, R110: a header word selects at most one row of the opcode map, and the row of its opcode byte. -/
def Obligations.HeaderSelectsOneRow : Prop :=
  ∀ (h : Word) (o : Op), h &&& o.mask = o.pattern →
    o.code.toNat = h.toNat % 256 ∧ ∀ p : Op, h &&& p.mask = p.pattern → p = o

/-- R111, R306 (items 1 to 5): the order of the decode checks. -/
def Obligations.DecodeFollowsCheckOrder : Prop :=
  ∀ (h : Word) (ws : List Word),
    ((h.toNat % 256 = 0 ∨ 12 < h.toNat % 256) → decode (h :: ws) = .error .reservedOpcode) ∧
    ∀ o : Op, o.code.toNat = h.toNat % 256 →
      (h &&& o.mask ≠ o.pattern → decode (h :: ws) = .error .reservedField) ∧
      (h &&& o.mask = o.pattern →
        (o = .tload → (h.toNat / 2 ^ 16 % 128 = 0 ∨ 100 < h.toNat / 2 ^ 16 % 128) →
          decode (h :: ws) = .error .tableLength) ∧
        ((o = .tload → 1 ≤ h.toNat / 2 ^ 16 % 128 ∧ h.toNat / 2 ^ 16 % 128 ≤ 100) →
          (ws.length < o.count h → decode (h :: ws) = .error .truncatedCommand) ∧
          (o.count h ≤ ws.length →
            ((o = .swpf ∨ o = .swpp ∨ o = .swpa) → 2 ^ 16 ≤ (ws.getD 4 0#32).toNat →
              decode (h :: ws) = .error .reservedField) ∧
            ((o ≠ .swpf ∧ o ≠ .swpp ∧ o ≠ .swpa) ∨ (ws.getD 4 0#32).toNat < 2 ^ 16 →
              ∃ i, decode (h :: ws) = .ok i))))

/-- R112: words written out from the spec's examples decode to the commands they stand for. -/
def Obligations.ExampleWordsDecode : Prop :=
  decode [0x00000001#32, 0x017D7840#32] = .ok (.setclk 25000000#32) ∧
  decode [0x00190402#32] = .ok (.init true 25#8) ∧
  decode [0x00010003#32] = .ok (.select 1#4) ∧
  decode [0x00000804#32, 0x05F5E100#32] = .ok (.setf false .domain 100000000#32) ∧
  decode [0x00000006#32, 0x00000200#32] = .ok (.seta false .raw 512#32) ∧
  decode [0x0003080B#32, 0x64#32, 0xC8#32, 0x12C#32] = .ok (.tload 0 .domain [100#32, 200#32, 300#32]) ∧
  decode [0x0002000C#32] = .ok (.poll 0 .low .high)

/-- R108: a reserved opcode faults with ReservedOpcode, cp at the header and no event, all else unchanged. -/
def Obligations.ReservedOpcodeFaults : Prop :=
  ∀ (s : State) (h : Word), s.fault = none → s.sweep = .idle → s.cmdWord s.cp = some h →
    (h.toNat % 256 = 0 ∨ 13 ≤ h.toNat % 256) →
    step s = .next { s with fault := some .reservedOpcode }

/-- R109: reserved header bits, and a sweep's w4[31:16] once its operands are read, fault with ReservedField. -/
def Obligations.ReservedFieldFaults : Prop :=
  ∀ (s : State) (h : Word) (ws : List Word) (o : Op), s.fault = none → s.sweep = .idle →
    s.stream.drop s.cp = h :: ws → o.code.toNat = h.toNat % 256 →
    (h &&& o.mask ≠ o.pattern → step s = .next { s with fault := some .reservedField }) ∧
    (h &&& o.mask = o.pattern → (o = .swpf ∨ o = .swpp ∨ o = .swpa) → 6 ≤ ws.length →
      2 ^ 16 ≤ (ws.getD 4 0#32).toNat → step s = .next { s with fault := some .reservedField })

/-- R60, R111: a stream that ends inside a command faults with TruncatedCommand; so does a read of the header past the end
(a cp beyond the stream, which no run reaches: the model's reading of R60, log entry 8). -/
def Obligations.TruncatedCommandFaults : Prop :=
  ∀ (s : State), s.fault = none → s.sweep = .idle →
    (s.stream.length < s.cp → step s = .next { s with fault := some .truncatedCommand }) ∧
    ∀ (i : Instr) (n : Nat), i.wf = true → 1 ≤ n → n ≤ i.operandCount →
      s.stream.drop s.cp = (encode i).take n → step s = .next { s with fault := some .truncatedCommand }

/-! ## The step -/

/-- R111: where the words at cp are those of a well-formed command, the step is that command's meaning; where their decoding
fails with a fault kind, cp not at the stream's end (beyond it: log entry 8), the step records that kind and changes nothing
else; and, written out from the header (R109, R261, R303), a TLOAD whose length is 0 or above 100 records TableLength. -/
def Obligations.StepRunsDecodedInstruction : Prop :=
  ∀ s : State, s.fault = none → s.sweep = .idle →
    (∀ (i : Instr) (rest : List Word), i.wf = true → s.stream.drop s.cp = encode i ++ rest → step s = exec i s) ∧
    (∀ k : FaultKind, s.cp ≠ s.stream.length → decode (s.stream.drop s.cp) = .error k →
      step s = .next { s with fault := some k }) ∧
    ∀ (h : Word) (ws : List Word), s.stream.drop s.cp = h :: ws → h &&& Op.tload.mask = Op.tload.pattern →
      (h.toNat / 2 ^ 16 % 128 = 0 ∨ 100 < h.toNat / 2 ^ 16 % 128) →
      step s = .next { s with fault := some .tableLength }

/-- R29, R302, R317: a faulted block takes no step; a state is final where it has no fault, no sweep and its cp at the stream's
end, and a final state takes no step and records no fault. The stops' names are the model's (log entries 4 and 7). -/
def Obligations.FaultedBlockTakesNoStep : Prop :=
  ∀ s : State,
    (∀ k : FaultKind, s.fault = some k → step s = .fault (.halted k)) ∧
    (s.final = true ↔ s.fault = none ∧ s.sweep = .idle ∧ s.cp = s.stream.length) ∧
    (s.final = true → step s = .fault .endOfStream)

/-- R302, R304, R307: a step that raises a fault changes nothing but `fault`: cp stays, no event, no other field. -/
def Obligations.FaultChangesOnlyFault : Prop :=
  ∀ (s t : State) (k : FaultKind), s.fault = none → step s = .next t → t.fault = some k →
    t = { s with fault := some k }

/-- R317: the block has a step in every state of the invariant that is neither faulted nor final. -/
def Obligations.UnfinishedBlockHasStep : Prop :=
  ∀ s : State, Inv s → s.fault = none → s.final = false → ∃ t, step s = .next t

/-- R317: every run on a finite stream is finite, within three steps a command of at least one word, and from a state of the
invariant it ends final or faulted (the stops' names are the model's, log entries 4 and 7). -/
def Obligations.EveryRunEnds : Prop :=
  ∀ s : State, ∃ k r, k ≤ 3 * (s.stream.length - s.cp) + 4 ∧ runSteps k s = .fault r ∧
    (Inv s → r = .endOfStream ∨ ∃ f : FaultKind, r = .halted f)

/-- R37: a completed or reported command moves cp past its words, and a sweep moves it when it finishes (R225). -/
def Obligations.CommandPointerAdvances : Prop :=
  (∀ (i : Instr) (s t : State), s.fault = none → s.sweep = .idle → exec i s = .next t → t.fault = none →
    (t.sweep = .idle → t.cp = s.cp + (encode i).length) ∧ (t.sweep ≠ .idle → t.cp = s.cp)) ∧
  (∀ (ctx : SweepCtx) (s t : State), s.fault = none → s.sweep = .configured ctx → step s = .next t → t.cp = s.cp) ∧
  (∀ (ctx : SweepCtx) (s t : State), s.fault = none → s.sweep = .running ctx → step s = .next t → t.cp = s.cp + 7)

/-! ## DeviceDriver (41_driver.md) -/

/-- R180. -/
def Obligations.SetclkLoadsBothClocks : Prop :=
  ∀ (hz : Word) (s : State),
    encode (.setclk hz) = [0x00000001#32, hz] ∧
    exec (.setclk hz) s =
      .next { s with baseClk := hz, clk := BitVec.ofNat 64 hz.toNat, status := .ok, cp := s.cp + 2 }

/-- R181, with R155 and R156. -/
def Obligations.InitResetsChipAndScalesClock : Prop :=
  ∀ (v : Bool) (x : Byte) (s : State),
    encode (.init v x) = [BitVec.ofNat 32 (0x02 + v.toNat * 2 ^ 10 + x.toNat * 2 ^ 16)] ∧
    (v = true → 20 < x.toNat →
      exec (.init v x) s = .next { s with status := .invalidParameter, cp := s.cp + 1 }) ∧
    (v = false ∨ x.toNat ≤ 20 → ∀ r : Fin 21, r.val = min x.toNat 20 → ∀ es : List Event,
      es = [.reset s.cfg.resetPulseMs,
            .frame 0x01#8 [s.cfg.fr1Payload[r.val].1, s.cfg.fr1Payload[r.val].2.1, s.cfg.fr1Payload[r.val].2.2],
            .update] →
      exec (.init v x) s = .next { s with
        trace := s.trace ++ es
        chip := s.chip.observeAll s.cfg.csrBuffered es
        clk := BitVec.ofNat 64
          ((if s.cfg.clockMode = .compound then s.clk.toNat else s.baseClk.toNat) * r.val)
        status := .ok
        cp := s.cp + 1 })

/-- R182, R146: channel c's enable bit is csr bit 4 + c, bit 3 is 0, bits [2:0] stay; no UPDATE. -/
def Obligations.SelectMergesChannelMask : Prop :=
  ∀ (mask : BitVec 4) (s : State) (c : Byte), c.toNat = mask.toNat * 16 + s.csr.toNat % 8 →
    encode (.select mask) = [BitVec.ofNat 32 (0x03 + mask.toNat * 2 ^ 16)] ∧
    exec (.select mask) s = .next { s with
      csr := c
      trace := s.trace ++ [.frame 0x00#8 [c]]
      chip := s.chip.observeAll s.cfg.csrBuffered [.frame 0x00#8 [c]]
      status := .ok
      cp := s.cp + 1 }

/-- R183, with R141, R142 and R155. -/
def Obligations.SetfWritesTuningWordAndUpdates : Prop :=
  ∀ (v : Bool) (k : Kind) (w : Word) (s : State) (limit : Nat),
    limit = (if k = .domain then s.clk.toNat else 2 ^ 32) * s.cfg.nyqNum →
    encode (.setf v k w) = [BitVec.ofNat 32 (0x04 + v.toNat * 2 ^ 10 + k.bit.toNat * 2 ^ 11), w] ∧
    (v = true → limit < w.toNat * s.cfg.nyqDen →
      exec (.setf v k w) s = .next { s with status := .invalidParameter, cp := s.cp + 2 }) ∧
    (v = false ∨ w.toNat * s.cfg.nyqDen ≤ limit →
      (k = .domain → s.clk = 0#64 → exec (.setf v k w) s = .next { s with fault := some .clockZero }) ∧
      (k = .raw ∨ s.clk ≠ 0#64 → ∀ (x : Nat) (es : List Event),
        x = (if k = .domain then w.toNat * 2 ^ 32 / s.clk.toNat % 2 ^ 32 else w.toNat) →
        es = [.frame 0x04#8 [BitVec.ofNat 8 (x / 2 ^ 24), BitVec.ofNat 8 (x / 2 ^ 16), BitVec.ofNat 8 (x / 2 ^ 8),
                BitVec.ofNat 8 x], .update] →
        exec (.setf v k w) s = .next { s with
          trace := s.trace ++ es
          chip := s.chip.observeAll s.cfg.csrBuffered es
          lastFreq := some (k, w)
          status := .ok
          cp := s.cp + 2 }))

/-- R184, with R143 and R144: no UPDATE. -/
def Obligations.SetpWritesPhaseWithoutUpdate : Prop :=
  ∀ (k : Kind) (w : Word) (s : State) (p : Nat) (es : List Event),
    p = (if k = .domain then (w.toNat + 720) / 1440 % 16384 else w.toNat % 2 ^ 14) →
    es = [.frame 0x05#8 [BitVec.ofNat 8 (p / 2 ^ 8), BitVec.ofNat 8 p]] →
    encode (.setp k w) = [BitVec.ofNat 32 (0x05 + k.bit.toNat * 2 ^ 11), w] ∧
    exec (.setp k w) s = .next { s with
      trace := s.trace ++ es
      chip := s.chip.observeAll s.cfg.csrBuffered es
      lastPhase := some (k, w)
      status := .ok
      cp := s.cp + 2 }

/-- R185, with R145, R147 and R155. -/
def Obligations.SetaWritesAmplitudeAndUpdates : Prop :=
  ∀ (v : Bool) (k : Kind) (w : Word) (s : State) (word : Nat),
    word = (if k = .domain then (w.toNat * s.cfg.ampFullScale + 32768) / 65536 else w.toNat) →
    encode (.seta v k w) = [BitVec.ofNat 32 (0x06 + v.toNat * 2 ^ 10 + k.bit.toNat * 2 ^ 11), w] ∧
    (v = true → 1023 < word →
      exec (.seta v k w) s = .next { s with status := .invalidParameter, cp := s.cp + 2 }) ∧
    (v = false ∨ word ≤ 1023 → ∀ es : List Event,
      es = [.frame 0x06#8 [0x00#8, BitVec.ofNat 8 (0x10 + word % 1024 / 2 ^ 8), BitVec.ofNat 8 (word % 1024)], .update] →
      exec (.seta v k w) s = .next { s with
        trace := s.trace ++ es
        chip := s.chip.observeAll s.cfg.csrBuffered es
        status := .ok
        cp := s.cp + 2 })

/-- R186: UPDATE and nothing else; with nothing pending no visible state changes (R75, R77). -/
def Obligations.CommitPulsesUpdate : Prop :=
  ∀ s : State,
    encode .commit = [0x00000007#32] ∧
    exec .commit s = .next { s with
      trace := s.trace ++ [.update]
      chip := s.chip.observeAll s.cfg.csrBuffered [.update]
      status := .ok
      cp := s.cp + 1 } ∧
    (s.chip.pend = s.chip.act → s.chip.p1 = s.chip.a1 → ∀ c : Chan,
      (s.chip.observeAll s.cfg.csrBuffered [.update]).visible c = s.chip.visible c)

/-- R301: the commands that can report are SETF, SETA, INIT, SWPF and SWPA, and only with V = 1; a report changes status and
cp alone. -/
def Obligations.OnlyValidatedCommandsReport : Prop :=
  ∀ (i : Instr) (s t : State), s.status = .ok → exec i s = .next t → t.status = .invalidParameter →
    ((∃ k w, i = .setf true k w) ∨ (∃ k w, i = .seta true k w) ∨ (∃ x, i = .init true x) ∨
      (∃ ch k p, i = .swpf ch true k p) ∨ (∃ ch k p, i = .swpa ch true k p)) ∧
    t = { s with status := .invalidParameter, cp := s.cp + 1 + i.operandCount }

/-! ## SweepController (42_sweep.md) -/

/-- R220, R222, R223 and R226: SWPF reports, faults with ClockZero, or writes the frequency sweep's words uncommitted. -/
def Obligations.SwpfConfiguresFrequencySweep : Prop :=
  ∀ (ch : Chan) (v : Bool) (k : Kind) (p : SweepOps) (s : State) (limit : Nat) (word : Word → Nat)
    (be : Nat → List Byte) (c : Byte) (es : List Event),
    limit = (if k = .domain then s.clk.toNat else 2 ^ 32) * s.cfg.nyqNum →
    (∀ w, word w = if k = .domain then w.toNat * 2 ^ 32 / s.clk.toNat % 2 ^ 32 else w.toNat) →
    (∀ x, be x = [BitVec.ofNat 8 (x / 2 ^ 24), BitVec.ofNat 8 (x / 2 ^ 16), BitVec.ofNat 8 (x / 2 ^ 8), BitVec.ofNat 8 x]) →
    c.toNat = 2 ^ (4 + ch.val) + s.csr.toNat % 8 →
    es = [.frame 0x00#8 [c], .frame 0x03#8 [0x80#8, s.cfg.cfrTail.1, s.cfg.cfrTail.2], .frame 0x04#8 (be (word p.start)),
          .frame 0x0A#8 (be (word p.stop)), .frame 0x08#8 (be (word p.rdelta)), .frame 0x09#8 (be (word p.fdelta)),
          .frame 0x07#8 [p.frate, p.rrate]] →
    (v = true → (limit < p.start.toNat * s.cfg.nyqDen ∨ limit < p.stop.toNat * s.cfg.nyqDen) →
      exec (.swpf ch v k p) s = .next { s with status := .invalidParameter, cp := s.cp + 7 }) ∧
    (v = false ∨ (p.start.toNat * s.cfg.nyqDen ≤ limit ∧ p.stop.toNat * s.cfg.nyqDen ≤ limit) →
      (k = .domain → s.clk = 0#64 → exec (.swpf ch v k p) s = .next { s with fault := some .clockZero }) ∧
      (k = .raw ∨ s.clk ≠ 0#64 →
        exec (.swpf ch v k p) s = .next { s with
          csr := c
          trace := s.trace ++ es
          chip := s.chip.observeAll s.cfg.csrBuffered es
          sweep := .configured { ch := ch, hold := p.hold, kind := .freq } }))

/-- R220, R223 and R227: SWPP writes the phase sweep's words, the start right-justified, the rest left-justified (R149). -/
def Obligations.SwppConfiguresPhaseSweep : Prop :=
  ∀ (ch : Chan) (k : Kind) (p : SweepOps) (s : State) (word : Word → Nat) (left : Nat → List Byte) (c : Byte)
    (es : List Event),
    (∀ w, word w = if k = .domain then (w.toNat + 720) / 1440 % 16384 else w.toNat % 2 ^ 14) →
    (∀ x, left x = [BitVec.ofNat 8 (x / 2 ^ 6), BitVec.ofNat 8 (x % 2 ^ 6 * 4), 0x00#8, 0x00#8]) →
    c.toNat = 2 ^ (4 + ch.val) + s.csr.toNat % 8 →
    es = [.frame 0x00#8 [c], .frame 0x03#8 [0xC0#8, s.cfg.cfrTail.1, s.cfg.cfrTail.2],
          .frame 0x05#8 [BitVec.ofNat 8 (word p.start / 2 ^ 8), BitVec.ofNat 8 (word p.start)],
          .frame 0x0A#8 (left (word p.stop)), .frame 0x08#8 (left (word p.rdelta)), .frame 0x09#8 (left (word p.fdelta)),
          .frame 0x07#8 [p.frate, p.rrate]] →
    exec (.swpp ch k p) s = .next { s with
      csr := c
      trace := s.trace ++ es
      chip := s.chip.observeAll s.cfg.csrBuffered es
      sweep := .configured { ch := ch, hold := p.hold, kind := .phase } }

/-- R220, R222, R223 and R228: SWPA reports, or writes the amplitude sweep's words; the deltas lose their two low bits (R152). -/
def Obligations.SwpaConfiguresAmplitudeSweep : Prop :=
  ∀ (ch : Chan) (v : Bool) (k : Kind) (p : SweepOps) (s : State) (word : Word → Nat) (c : Byte) (es : List Event),
    (∀ w, word w = if k = .domain then (w.toNat * s.cfg.ampFullScale + 32768) / 65536 else w.toNat) →
    c.toNat = 2 ^ (4 + ch.val) + s.csr.toNat % 8 →
    es = [.frame 0x00#8 [c], .frame 0x03#8 [0x40#8, s.cfg.cfrTail.1, s.cfg.cfrTail.2],
          .frame 0x06#8 [0x00#8, BitVec.ofNat 8 (0x10 + word p.start % 1024 / 2 ^ 8), BitVec.ofNat 8 (word p.start % 1024)],
          .frame 0x0A#8 [BitVec.ofNat 8 (word p.stop % 1024 / 4), BitVec.ofNat 8 (word p.stop % 4 * 64), 0x00#8, 0x00#8],
          .frame 0x08#8 [BitVec.ofNat 8 (word p.rdelta % 1024 / 4), 0x00#8, 0x00#8, 0x00#8],
          .frame 0x09#8 [BitVec.ofNat 8 (word p.fdelta % 1024 / 4), 0x00#8, 0x00#8, 0x00#8],
          .frame 0x07#8 [p.frate, p.rrate]] →
    (v = true → (1023 < word p.start ∨ 1023 < word p.stop) →
      exec (.swpa ch v k p) s = .next { s with status := .invalidParameter, cp := s.cp + 7 }) ∧
    (v = false ∨ (word p.start ≤ 1023 ∧ word p.stop ≤ 1023) →
      exec (.swpa ch v k p) s = .next { s with
        csr := c
        trace := s.trace ++ es
        chip := s.chip.observeAll s.cfg.csrBuffered es
        sweep := .configured { ch := ch, hold := p.hold, kind := .amp } })

/-- R224: Configured to Running is UPDATE, then the sweep's own gate driven HIGH. -/
def Obligations.ConfiguredSweepStartsRamp : Prop :=
  ∀ (ctx : SweepCtx) (s : State), s.fault = none → s.sweep = .configured ctx →
    step s = .next { s with
      trace := s.trace ++ [.update, .gate ctx.ch .high]
      chip := s.chip.observeAll s.cfg.csrBuffered [.update, .gate ctx.ch .high]
      gate := s.gate.set ctx.ch.val .high
      sweep := .running ctx }

/-- R225: Running to Idle is DELAY(hold), then the gate driven LOW; the command completes here. The observer keeps its registers
(R78) where the hold is not zero; after a zero hold the swept register's active value on the sweep's channel is any value v
(D62, log entry 12), every other register of the chip as before; `nextDraw` is the model's own (log entry 3). -/
def Obligations.RunningSweepFinishes : Prop :=
  ∀ (ctx : SweepCtx) (s : State), s.fault = none → s.sweep = .running ctx →
    ∃ c : Chip,
      step s = .next { s with
        trace := s.trace ++ [.delay ctx.hold.toNat, .gate ctx.ch .low]
        chip := c
        gate := s.gate.set ctx.ch.val .low
        sweep := .idle
        status := .ok
        cp := s.cp + 7 } ∧
      (ctx.hold ≠ 0#32 → c = s.chip) ∧
      (ctx.hold = 0#32 →
        c.pend = s.chip.pend ∧ c.p1 = s.chip.p1 ∧ c.a1 = s.chip.a1 ∧ c.ocsr = s.chip.ocsr ∧ c.pcsr = s.chip.pcsr ∧
        (∀ d : Chan, d ≠ ctx.ch → c.act[d.val] = s.chip.act[d.val]) ∧
        ∃ v : Nat, c.act[ctx.ch.val] =
          match ctx.kind with
          | .freq => { s.chip.act[ctx.ch.val] with cftw0 := BitVec.ofNat 32 v }
          | .phase => { s.chip.act[ctx.ch.val] with cpow0 := BitVec.ofNat 16 v }
          | .amp => { s.chip.act[ctx.ch.val] with acr := BitVec.ofNat 24 v })

/-- R229, R230 and R226 to R228: a sweep that configures runs to Idle in three steps, whatever its hold: seven frames, then
UPDATE, GATE HIGH, DELAY, GATE LOW, the gates as before but for its own LOW. The observer is that of the events; after a zero
hold it is so but for the swept register's active value, any value v (D62, log entry 12), and the model's count of draws. -/
def Obligations.SweepRunsToCompletion : Prop :=
  ∀ (s s1 : State) (i : Instr) (ctx : SweepCtx) (rest : List Word), s.fault = none → s.sweep = .idle → i.wf = true →
    s.stream.drop s.cp = encode i ++ rest → sweepCtxOf i = some ctx → exec i s = .next s1 → s1.sweep ≠ .idle →
    ∃ (frames es : List Event) (c : Chip), frames.length = 7 ∧ s1.trace = s.trace ++ frames ∧
      (∀ e ∈ frames, ∃ a b, e = .frame a b) ∧
      es = frames ++ [.update, .gate ctx.ch .high, .delay ctx.hold.toNat, .gate ctx.ch .low] ∧
      runSteps 3 s = .next { s with
        csr := s1.csr
        trace := s.trace ++ es
        chip := c
        gate := s.gate.set ctx.ch.val .low
        status := .ok
        cp := s.cp + 7 } ∧
      (ctx.hold ≠ 0#32 → c = s.chip.observeAll s.cfg.csrBuffered es) ∧
      (ctx.hold = 0#32 → ∃ v : Nat,
        c = { (s.chip.observeAll s.cfg.csrBuffered es).setSwept ctx.kind ctx.ch v with nextDraw := c.nextDraw })

/-- R229: while a sweep is under way the block decodes no command, so no stream changes the step. -/
def Obligations.SweepStepIgnoresStream : Prop :=
  ∀ (s t : State) (ws : List Word), s.fault = none → s.sweep ≠ .idle → step s = .next t →
    step { s with stream := ws } = .next { t with stream := ws }

/-! ## ChannelStepper (43_stepper.md) -/

/-- R261: TLOAD writes the entries and resets the channel's automata; no event, no other channel, no other entry. -/
def Obligations.TloadLoadsTable : Prop :=
  ∀ (ch : Chan) (k : Kind) (es : List Word) (s : State), 1 ≤ es.length → es.length ≤ 100 →
    ∃ m : Memory,
      (∀ i, i < es.length → m.read (tableAddr ch i) = es[i]?) ∧
      (∀ a, ¬(tableAddr ch 0 ≤ a ∧ a < tableAddr ch 0 + es.length) → m.read a = s.mem.read a) ∧
      exec (.tload ch k es) s = .next { s with
        mem := m
        steppers := s.steppers.set ch.val
          { tlen := es.length, tkind := k, cursor := if s.cfg.cursorInit = .minusOne then -1 else 0
            stepLatch := .armed, resetLatch := .armed }
        status := .ok
        cp := s.cp + 1 + es.length }

/-- R262, R263, R264, R265 and R351: POLL in every state whose table is loaded: what each automaton fires, the events, the
cursor, the latches, and everything else unchanged. -/
def Obligations.PollFiresAutomata : Prop :=
  ∀ (ch : Chan) (stp rst : Level) (s : State) (t : Stepper) (c : Byte) (sf rf : Bool) (word : Word → Nat)
    (act : Word → List Event),
    t = s.stepper ch → StepperOk s ch → 0 < t.tlen →
    (sf = true ↔ stp = .high ∧ t.stepLatch = .armed ∧ t.cursor < (t.tlen : Int) - 1) →
    (rf = true ↔ rst = .high ∧ t.resetLatch = .armed) →
    (t.tkind = .domain → s.clk = 0#64 → sf = false ∧ rf = false) →
    c.toNat = 2 ^ (4 + ch.val) + s.csr.toNat % 8 →
    (∀ w, word w = if t.tkind = .domain then w.toNat * 2 ^ 32 / s.clk.toNat % 2 ^ 32 else w.toNat) →
    (∀ w, act w = [.frame 0x00#8 [c],
      .frame 0x04#8 [BitVec.ofNat 8 (word w / 2 ^ 24), BitVec.ofNat 8 (word w / 2 ^ 16), BitVec.ofNat 8 (word w / 2 ^ 8),
        BitVec.ofNat 8 (word w)], .update]) →
    ∃ e1 e2 : Word,
      (sf = true → s.tableRead ch (t.cursor + 1).toNat = some e1) ∧ (rf = true → s.tableRead ch 0 = some e2) ∧
      exec (.poll ch stp rst) s = .next { s with
        csr := if sf || rf then c else s.csr
        lastFreq := if rf then some (t.tkind, e2) else if sf then some (t.tkind, e1) else s.lastFreq
        steppers := s.steppers.set ch.val
          { t with
            cursor := if rf then 0 else if sf then t.cursor + 1 else t.cursor
            stepLatch := if stp = .high then .fired else .armed
            resetLatch := if rst = .high then .fired else .armed }
        trace := s.trace ++ ((if sf then act e1 else []) ++ (if rf then act e2 else []))
        chip := s.chip.observeAll s.cfg.csrBuffered ((if sf then act e1 else []) ++ (if rf then act e2 else []))
        status := .ok
        cp := s.cp + 1 }

/-- R262: POLL on a channel with no table faults with StepperUnconfigured; an action of an Hz table with clk = 0 faults with
ClockZero before any effect. -/
def Obligations.PollFaultsBeforeAnyEffect : Prop :=
  ∀ (ch : Chan) (stp rst : Level) (s : State),
    ((s.stepper ch).tlen = 0 → exec (.poll ch stp rst) s = .next { s with fault := some .stepperUnconfigured }) ∧
    (0 < (s.stepper ch).tlen → (s.stepper ch).tkind = .domain → s.clk = 0#64 →
      (stp = .high ∧ (s.stepper ch).stepLatch = .armed ∧ (s.stepper ch).cursor < ((s.stepper ch).tlen : Int) - 1) ∨
        (rst = .high ∧ (s.stepper ch).resetLatch = .armed) →
      exec (.poll ch stp rst) s = .next { s with fault := some .clockZero })

/-- R263, R266 properties 1 and 2: at table exhaustion a step edge emits nothing and moves nothing but the latches; and while
both lines are held HIGH and both latches are Fired, a sample changes nothing, whatever the table and the clock. -/
def Obligations.QuietSamplesFireNothing : Prop :=
  ∀ (ch : Chan) (s : State), 0 < (s.stepper ch).tlen →
    ((s.stepper ch).cursor = ((s.stepper ch).tlen : Int) - 1 →
      exec (.poll ch .high .low) s = .next { s with
        steppers := s.steppers.set ch.val { s.stepper ch with stepLatch := .fired, resetLatch := .armed }
        status := .ok
        cp := s.cp + 1 }) ∧
    ((s.stepper ch).stepLatch = .fired → (s.stepper ch).resetLatch = .fired →
      exec (.poll ch .high .high) s = .next { s with status := .ok, cp := s.cp + 1 })

/-- R266 property 3, R265: after the TLOAD of L entries with no reset edge, each step edge advances the cursor by one, as long as it
is below L - 1, and programs the entry there (the CSR frame, the FTW frame, UPDATE); every later one is a no-op. So with
CURSOR_INIT = -1 the first L step edges program entries 0 to L - 1, with CURSOR_INIT = 0 only L - 1 advance and program
entries 1 to L - 1. `prog` is the list of entries that n step edges program. -/
def Obligations.StepEdgesWalkTable : Prop :=
  ∀ (ch : Chan) (k : Kind) (es : List Word) (s s0 : State) (n first : Nat) (prog : List Word) (c : Byte) (word : Word → Nat)
    (act : Word → List Event), 1 ≤ es.length → es.length ≤ 100 →
    (first = if s.cfg.cursorInit = .minusOne then 0 else 1) → prog = (es.drop first).take n →
    (k = .raw ∨ s.clk ≠ 0#64) → exec (.tload ch k es) s = .next s0 →
    c.toNat = 2 ^ (4 + ch.val) + s.csr.toNat % 8 →
    (∀ w, word w = if k = .domain then w.toNat * 2 ^ 32 / s.clk.toNat % 2 ^ 32 else w.toNat) →
    (∀ w, act w = [.frame 0x00#8 [c],
      .frame 0x04#8 [BitVec.ofNat 8 (word w / 2 ^ 24), BitVec.ofNat 8 (word w / 2 ^ 16), BitVec.ofNat 8 (word w / 2 ^ 8),
        BitVec.ofNat 8 (word w)], .update]) →
    ∃ t, stepEdges ch n s0 = .next t ∧ (t.stepper ch).cursor = (min (n + first) es.length : Int) - 1 ∧
      t.trace = s0.trace ++ prog.flatMap act ∧
      (prog = [] → t.csr = s.csr ∧ t.lastFreq = s.lastFreq) ∧
      (prog ≠ [] → t.csr = c ∧ t.lastFreq = prog.getLast?.map fun e => (k, e))

/-- R266 property 5, R260: no command reads or writes another channel's stepper state through one channel's TLOAD or POLL. -/
def Obligations.StepperChannelsAreSeparate : Prop :=
  ∀ (i : Instr) (s t : State) (d : Chan), exec i s = .next t →
    (∀ ch k es, i = .tload ch k es → ch ≠ d) → (∀ ch a b, i = .poll ch a b → ch ≠ d) →
    t.stepper d = s.stepper d ∧ ∀ j, j < 100 → t.tableRead d j = s.tableRead d j

/-! ## What each command leaves alone -/

/-- The writers of R20's table, for a command's own step: each field changes only by the commands of its row, for a channel's
stepper fields the commands on that channel; no command changes the parameters, the stream or a gate. Of cp, status and fault,
whose rows name every command, nothing is said here. -/
def Obligations.EachFieldHasItsWriters : Prop :=
  ∀ (i : Instr) (s t : State), exec i s = .next t →
    t.cfg = s.cfg ∧ t.stream = s.stream ∧ t.gate = s.gate ∧
    (t.baseClk ≠ s.baseClk → ∃ hz, i = .setclk hz) ∧
    (t.clk ≠ s.clk → (∃ hz, i = .setclk hz) ∨ ∃ v x, i = .init v x) ∧
    (t.csr ≠ s.csr → (∃ m, i = .select m) ∨ (∃ ctx, sweepCtxOf i = some ctx) ∨ ∃ ch a b, i = .poll ch a b) ∧
    (t.lastFreq ≠ s.lastFreq → (∃ v k w, i = .setf v k w) ∨ ∃ ch a b, i = .poll ch a b) ∧
    (t.lastPhase ≠ s.lastPhase → ∃ k w, i = .setp k w) ∧
    (t.sweep ≠ s.sweep → ∃ ctx, sweepCtxOf i = some ctx) ∧
    (t.mem ≠ s.mem → ∃ ch k es, i = .tload ch k es) ∧
    (t.steppers ≠ s.steppers → (∃ ch k es, i = .tload ch k es) ∨ ∃ ch a b, i = .poll ch a b) ∧
    (∀ c : Chan,
      ((t.stepper c).tlen ≠ (s.stepper c).tlen → ∃ k es, i = .tload c k es) ∧
      ((t.stepper c).tkind ≠ (s.stepper c).tkind → ∃ k es, i = .tload c k es) ∧
      ((t.stepper c).cursor ≠ (s.stepper c).cursor → (∃ k es, i = .tload c k es) ∨ ∃ a b, i = .poll c a b) ∧
      ((t.stepper c).stepLatch ≠ (s.stepper c).stepLatch → (∃ k es, i = .tload c k es) ∨ ∃ a b, i = .poll c a b) ∧
      ((t.stepper c).resetLatch ≠ (s.stepper c).resetLatch → (∃ k es, i = .tload c k es) ∨ ∃ a b, i = .poll c a b)) ∧
    (t.trace ≠ s.trace → (∀ hz, i ≠ .setclk hz) ∧ ∀ ch k es, i ≠ .tload ch k es)

/-- R61: a command that is no TLOAD leaves every table entry, and TLOAD every entry outside the ones it writes. -/
def Obligations.TableMemoryFrame : Prop :=
  ∀ (i : Instr) (s t : State) (a : Nat), exec i s = .next t →
    (∀ ch k es, i = .tload ch k es → ¬(tableAddr ch 0 ≤ a ∧ a < tableAddr ch 0 + es.length)) →
    t.mem.read a = s.mem.read a

/-- R35, R38, R70, R80: a step keeps the parameters and the stream, only appends to the trace, and shows the observer exactly
the events it appends, in order. The one step that does more to the observer is a sweep's last after a zero hold: there the
swept register's active value is any value v (D62, log entry 12). -/
def Obligations.StepAppendsToTrace : Prop :=
  ∀ s t : State, step s = .next t →
    t.cfg = s.cfg ∧ t.stream = s.stream ∧
    ∃ es : List Event, t.trace = s.trace ++ es ∧
      (t.chip = s.chip.observeAll s.cfg.csrBuffered es ∨
        ∃ (ctx : SweepCtx) (v : Nat), s.sweep = .running ctx ∧ ctx.hold = 0#32 ∧
          t.chip = { (s.chip.observeAll s.cfg.csrBuffered es).setSwept ctx.kind ctx.ch v with
            nextDraw := t.chip.nextDraw })

/-! ## Invariants -/

/-- Every entry number is one of R61's 400, and the list's canonical form, entry numbers strictly rising, is kept: the form is the
model's (log entry 10), R61 gives only the bound. -/
def Obligations.StepKeepsMemoryCanonical : Prop :=
  ∀ s t : State, s.mem.wf → step s = .next t → t.mem.wf

/-- R25: csr[2:0] never changes. -/
def Obligations.StepKeepsCsrLowBits : Prop :=
  ∀ s t : State, step s = .next t → t.csr &&& 0x07#8 = s.csr &&& 0x07#8

/-- R39.1, R20, R32: cursors stay inside their tables, lengths and cursors in their ranges, loaded entries readable. -/
def Obligations.StepKeepsCursorsInTables : Prop :=
  ∀ s t : State, (∀ c, StepperOk s c) → step s = .next t → ∀ c, StepperOk t c

/-- R31, R39.3: a gate is HIGH only on the channel of a running sweep. -/
def Obligations.StepKeepsGatesWithSweep : Prop :=
  ∀ s t : State, GatesOk s → step s = .next t → GatesOk t

/-- R62, R63, R64: every frame fills a register of the map exactly and every reset pulse is at least 10 ms. -/
def Obligations.StepKeepsTraceLegal : Prop :=
  ∀ s t : State, TraceLegal s → step s = .next t → TraceLegal t

/-- R37, R67: cp stays on command boundaries of the stream. -/
def Obligations.StepKeepsCommandPointerOnHeaders : Prop :=
  ∀ s t : State, OnHeader s → SweepAtHeader s → step s = .next t → OnHeader t ∧ SweepAtHeader t

/-- The invariant is kept by every step, from every state that has it, and by every move of the host. -/
def Obligations.StepKeepsInvariant : Prop :=
  (∀ s t : State, Inv s → step s = .next t → Inv t) ∧
  (∀ (s t : State) (m : HostMove), Inv s → hostMove m s = some t → Inv t)

/-- The invariant holds after reset, for every legal instance and whatever stream the host supplies. -/
def Obligations.InvariantHoldsAtReset : Prop :=
  Inv State.reset ∧
  ∀ (cfg : Config.Params) (ws : List Word), cfg.legal → Inv (hostAppend ws (State.resetOf cfg))

/-! ## Reset and the host (70_reset_and_hazards.md, 60_exceptions.md §5) -/

/-- R45: block reset between commands (R316, R330) gives every field its reset value, for every instance, execution starting at
cp = 0 of the stream the host supplies, and emits no event; with the defaults csr is 0xF0 and the cursors are -1. That the
stream after block reset is the one supplied with it is the model's reading (log entry 6). -/
def Obligations.BlockResetGivesResetValues : Prop :=
  (∀ (s : State) (ws : List Word), s.sweep = .idle →
    ∃ t, hostMove (.blockReset ws) s = some t ∧
      t.stream = ws ∧ t.cp = 0 ∧ t.baseClk = 0#32 ∧ t.clk = 0#64 ∧ t.csr = s.cfg.csrShadowReset ∧ t.lastFreq = none ∧
      t.lastPhase = none ∧ t.status = .ok ∧ t.fault = none ∧ t.sweep = .idle ∧ (∀ c : Chan, t.gate[c.val] = .low) ∧
      (∀ c i, t.tableRead c i = none) ∧
      (∀ c : Chan, t.stepper c =
        { tlen := 0, tkind := .domain, cursor := if s.cfg.cursorInit = .minusOne then -1 else 0
          stepLatch := .armed, resetLatch := .armed }) ∧
      t.trace = []) ∧
  State.reset.csr = 0xF0#8 ∧ (∀ c : Chan, (State.reset.stepper c).cursor = -1)

/-- R229, R316, R330: the host cannot reset the block inside a sweep nor read it; outside it reads the fields of R20 and nothing
of the chip; an append changes only the stream. That block reset keeps the parameters is the model's choice (log entry 6). -/
def Obligations.HostMovesAreLimited : Prop :=
  ∀ s : State,
    (s.sweep ≠ .idle → hostRead s = none ∧ ∀ ws, hostMove (.blockReset ws) s = none) ∧
    (s.sweep = .idle → ∃ v, hostRead s = some v ∧
      v.cp = s.cp ∧ v.baseClk = s.baseClk ∧ v.clk = s.clk ∧ v.csr = s.csr ∧ v.lastFreq = s.lastFreq ∧
      v.lastPhase = s.lastPhase ∧ v.status = s.status ∧ v.fault = s.fault ∧ v.sweep = .idle ∧ v.gate = s.gate ∧
      v.steppers = s.steppers ∧ v.trace = s.trace ∧
      ∀ c : Chan, (v.table[c.val]).length = (s.stepper c).tlen ∧
        ∀ j, j < (s.stepper c).tlen → (v.table[c.val])[j]? = some (s.tableRead c j)) ∧
    (∀ chip, hostRead { s with chip := chip } = hostRead s) ∧
    (∀ t ws, hostMove (.blockReset ws) s = some t → t.cfg = s.cfg ∧ t.stream = ws) ∧
    ∀ ws : List Word, hostMove (.append ws) s = some { s with stream := s.stream ++ ws }

/-- R124 to R127: the expansions of the pseudo-instructions, for every operand. -/
def Obligations.PseudoInstructionsExpand : Prop :=
  (∀ (w : Bool) (k : Kind) (f p : Nat), (k = if w then .raw else .domain) → f < 2 ^ 32 → p < 2 ^ 32 →
    assembleLine { mnem := .setfp, v := false, w := w, args := [.num f, .num p] } =
      some [.setp k (BitVec.ofNat 32 p), .setf false k (BitVec.ofNat 32 f)]) ∧
  (∀ c : Chan, assembleLine { mnem := .selch, v := false, w := false, args := [.num c.val] } =
    some [.select (BitVec.ofNat 4 (2 ^ c.val))]) ∧
  (∀ c : Chan, assembleLine { mnem := .edge, v := false, w := false, args := [.num c.val] } =
    some [.poll c .low .low, .poll c .high .low]) ∧
  (∀ c : Chan, assembleLine { mnem := .redge, v := false, w := false, args := [.num c.val] } =
    some [.poll c .low .low, .poll c .low .high]) ∧
  (∀ p : Nat, p < 2 ^ 32 → assembleLine { mnem := .setpc, v := false, w := false, args := [.num p] } =
    some [.setp .domain (BitVec.ofNat 32 p), .commit])

/-! ## Codec laws (40_codec.md) -/

/-- R141, R157.1 and R157.2: for f below the clock the tuning word is monotonic and decodes to within one step below f; at and
above the clock it wraps to that of f mod clk. -/
def Obligations.TuningWordLaws : Prop :=
  ∀ f clk : Nat, 0 < clk → ∃ x, ftwHz f clk = some x ∧ x < 2 ^ 32 ∧
    ftwHz (f % clk) clk = some x ∧
    (f < clk → (f : ℚ) - (clk : ℚ) / 2 ^ 32 < decodeFtw x clk ∧ decodeFtw x clk ≤ f) ∧
    (∀ g y, g ≤ f → f < clk → ftwHz g clk = some y → y ≤ x)

/-- R143: the phase word is the phase in turns times 16384, rounded half up, mod 16384; a full turn changes nothing. -/
def Obligations.PhaseWordRoundsHalfUp : Prop :=
  ∀ v : Nat, (powDeg v : ℤ) = ⌊(v : ℚ) / 65536 / 360 * 16384 + 1 / 2⌋ % 16384 ∧ powDeg (v + 23592960) = powDeg v

/-- R146, R157.4 and R157.5: the merge keeps the low three bits, clears bit 3, and the last mask wins. -/
def Obligations.CsrMergeLaws : Prop :=
  ∀ (old : Byte) (m1 m2 : BitVec 4),
    csrMerge (csrMerge old m1) m2 = csrMerge old m2 ∧
    csrMerge old m1 &&& 0x07#8 = old &&& 0x07#8 ∧
    (csrMerge old m1).getLsbD 3 = false ∧
    ∀ j, j < 4 → (csrMerge old m1).getLsbD (4 + j) = m1.getLsbD j

/-- R8, R66: a big-endian payload of n bytes has n bytes and stands for the value it was made from, mod 2^(8n). -/
def Obligations.PayloadStandsForItsValue : Prop :=
  ∀ n v : Nat, (bytesBE n v).length = n ∧ payloadValue (bytesBE n v) = v % 2 ^ (8 * n)

/-! ## The observer (20_memory.md §5) -/

/-- R74, R75, R78: UPDATE makes every pending register active, a second changes nothing, and neither the event GATE nor the event
DELAY does. What a zero hold does to the swept register (D62) is no rule of an event here but of the sweep's last step (log
entry 12; RunningSweepFinishes). -/
def Obligations.UpdateCommitsPending : Prop :=
  ∀ (b : Bool) (chip : Chip),
    (chip.observe b .update).act = chip.pend ∧ (chip.observe b .update).pend = chip.pend ∧
    (chip.observe b .update).a1 = chip.p1 ∧
    (chip.observe b .update).ocsr = (if b then chip.pcsr else chip.ocsr) ∧
    (chip.observe b .update).observe b .update = chip.observe b .update ∧
    (∀ c l, chip.observe b (.gate c l) = chip) ∧ ∀ ms, chip.observe b (.delay ms) = chip

/-- R70, restricted to channel registers and FR1 (a CSR frame routes the frames after it, R73): two frames to different
registers commute, and R68: a frame sent twice leaves what it left once. -/
def Obligations.FramesCommuteBeforeUpdate : Prop :=
  ∀ (b : Bool) (chip : Chip) (a1 a2 : Byte) (p1 p2 : List Byte),
    (a1 ≠ a2 → a1 ≠ 0x00#8 → a2 ≠ 0x00#8 →
      chip.observeAll b [.frame a1 p1, .frame a2 p2] = chip.observeAll b [.frame a2 p2, .frame a1 p1]) ∧
    chip.observeAll b [.frame a1 p1, .frame a1 p1] = chip.observeAll b [.frame a1 p1]

/-- R73, R74, R187, with R141 and R142: after a SETF that neither reports nor faults, of either kind, the frequency register is
active on exactly the channels that the CSR active in the chip before its UPDATE selects, whether or not the chip buffers its
CSR; every other register of every channel is the pending one; a buffered CSR becomes active with the UPDATE, after the frame. -/
def Obligations.SetfReachesSelectedChannels : Prop :=
  ∀ (v : Bool) (k : Kind) (w : Word) (s : State) (x : Nat),
    (k = .raw ∨ s.clk ≠ 0#64) →
    (v = true → w.toNat * s.cfg.nyqDen ≤ (if k = .domain then s.clk.toNat else 2 ^ 32) * s.cfg.nyqNum) →
    x = (if k = .domain then w.toNat * 2 ^ 32 / s.clk.toNat % 2 ^ 32 else w.toNat) →
    ∃ t, exec (.setf v k w) s = .next t ∧
      (∀ c : Chan, t.chip.act[c.val] =
        if s.chip.ocsr.getLsbD (4 + c.val) then { s.chip.pend[c.val] with cftw0 := BitVec.ofNat 32 x }
        else s.chip.pend[c.val]) ∧
      t.chip.ocsr = if s.cfg.csrBuffered then s.chip.pcsr else s.chip.ocsr

/-- R345: the frame a SELECT emits sets the whole chip CSR, so the chip's CSR equals the block's csr again, at once or, where
the chip buffers its CSR, at the next UPDATE. -/
def Obligations.SelectRealignsChipCsr : Prop :=
  ∀ (m : BitVec 4) (s t u : State), exec (.select m) s = .next t → exec .commit t = .next u →
    u.chip.ocsr = u.csr ∧ (s.cfg.csrBuffered = false → t.chip.ocsr = t.csr)

/-- R76, R331: the chip reset of an INIT that runs (V = 0, or V = 1 and a ratio of at most 20) forgets every chip register: INIT
completes, what the observer holds after it does not depend on what it held before (but for the number of the next free draw,
log entry 3), and A1 is the FR1 payload of the clamped ratio. -/
def Obligations.InitForgetsChipRegisters : Prop :=
  ∀ (v : Bool) (x : Byte) (s : State) (chip : Chip), chip.nextDraw = s.chip.nextDraw → (v = true → x.toNat ≤ 20) →
    ∃ t u, exec (.init v x) s = .next t ∧ exec (.init v x) { s with chip := chip } = .next u ∧
      u.chip = t.chip ∧ ∀ r : Fin 21, r.val = min x.toNat 20 →
        t.chip.a1.toNat = s.cfg.fr1Payload[r.val].1.toNat * 2 ^ 16 + s.cfg.fr1Payload[r.val].2.1.toNat * 2 ^ 8 +
          s.cfg.fr1Payload[r.val].2.2.toNat

/-! ## The bus (20_memory.md §3, 70_reset_and_hazards.md §4) -/

/-- R65: a frame is chip-select low, the address byte and the payload bytes, each most significant bit first, chip-select
high; 8 × (1 + n) clock cycles, the clock idle low before, between and after them; a receiver that samples the data line at
the leading edges takes exactly those bits; and every frame of a legal trace is a write (its address bit 7 is 0). -/
def Obligations.FrameOnTheBus : Prop :=
  ∀ (a : Byte) (p : List Byte) (d : Bool) (bits : List Bool),
    bits = ((a :: p).flatMap fun b => (List.range 8).map fun j => b.getLsbD (7 - j)) →
    (Event.frame a p).serialClocks = 8 * (1 + p.length) ∧
    sampledBits d .low (Event.frame a p).wire = bits ∧
    ((Event.frame a p).wire.filterMap fun x => match x with | .dataBit b => some b | _ => none) = bits ∧
    ((Event.frame a p).wire.filterMap fun x => match x with | .clockLine l => some l | _ => none) =
      ((List.range (8 * (1 + p.length))).flatMap fun _ => [Level.high, Level.low]) ∧
    (Event.frame a p).wire.head? = some (.chipSelect .low) ∧ (Event.frame a p).wire.getLast? = some (.chipSelect .high) ∧
    ((Event.frame a p).legal = true → a.getLsbD 7 = false)

/-- R356: the events and the bus bytes of each command. First, of a command's own step where it neither reports nor faults (a
sweep's seven frames); second, of a sweep from its header to Idle, its whole row; third, none of a command that reports or
faults. A command is run with no sweep under way. -/
def Obligations.CommandEventCounts : Prop :=
  (∀ (i : Instr) (s t : State) (es : List Event), s.sweep = .idle → exec i s = .next t → t.fault = none →
    (t.status = .ok ∨ t.sweep ≠ .idle) → t.trace = s.trace ++ es →
    match i with
    | .setclk _ | .tload _ _ _ => es.length = 0 ∧ busByteCount es = 0
    | .init _ _ => es.length = 3 ∧ busByteCount es = 4
    | .select _ => es.length = 1 ∧ busByteCount es = 2
    | .setf _ _ _ => es.length = 2 ∧ busByteCount es = 5
    | .setp _ _ => es.length = 1 ∧ busByteCount es = 3
    | .seta _ _ _ => es.length = 2 ∧ busByteCount es = 4
    | .commit => es.length = 1 ∧ busByteCount es = 0
    | .poll _ _ _ => (es.length = 0 ∧ busByteCount es = 0) ∨ (es.length = 3 ∧ busByteCount es = 7) ∨
        (es.length = 6 ∧ busByteCount es = 14)
    | .swpf _ _ _ _ => es.length = 7 ∧ busByteCount es = 29
    | .swpp _ _ _ => es.length = 7 ∧ busByteCount es = 27
    | .swpa _ _ _ _ => es.length = 7 ∧ busByteCount es = 28) ∧
  (∀ (i : Instr) (ctx : SweepCtx) (s s1 t : State) (rest : List Word) (es : List Event), s.fault = none →
    s.sweep = .idle → i.wf = true → s.stream.drop s.cp = encode i ++ rest → sweepCtxOf i = some ctx →
    exec i s = .next s1 → s1.sweep ≠ .idle → runSteps 3 s = .next t → t.trace = s.trace ++ es →
    es.length = 11 ∧
      busByteCount es = match ctx.kind with
        | .freq => 29
        | .phase => 27
        | .amp => 28) ∧
  (∀ (i : Instr) (s t : State), s.fault = none → s.sweep = .idle → exec i s = .next t →
    t.fault ≠ none ∨ (t.status = .invalidParameter ∧ t.sweep = .idle) → t.trace = s.trace)
end

