-- ==== Sys2Proof/Laws/Codec.lean ====
section
/-! SUPPORT. The codec's functions as arithmetic: byte lists as quotients, the csr merge as a sum, the cases of a conversion. -/

namespace Sys2Proof.Machine

/-- A word of BE_4 as quotients. -/
theorem bytesBE_four (x : Nat) :
    bytesBE 4 x = [BitVec.ofNat 8 (x / 2 ^ 24), BitVec.ofNat 8 (x / 2 ^ 16), BitVec.ofNat 8 (x / 2 ^ 8), BitVec.ofNat 8 x] := by
  simp [bytesBE, Nat.shiftRight_eq_div_pow]

/-- A word of BE_2 as quotients. -/
theorem bytesBE_two (x : Nat) : bytesBE 2 x = [BitVec.ofNat 8 (x / 2 ^ 8), BitVec.ofNat 8 x] := by
  simp [bytesBE, Nat.shiftRight_eq_div_pow]

@[simp] theorem ftwBytes_length (x : Nat) : (ftwBytes x).length = 4 := rfl
@[simp] theorem powBytes_length (x : Nat) : (powBytes x).length = 2 := rfl
@[simp] theorem phaseSweepBytes_length (x : Nat) : (phaseSweepBytes x).length = 4 := rfl
@[simp] theorem ampBytes_length (x : Nat) : (ampBytes x).length = 3 := rfl
@[simp] theorem ampEndBytes_length (x : Nat) : (ampEndBytes x).length = 4 := rfl
@[simp] theorem ampDeltaBytes_length (x : Nat) : (ampDeltaBytes x).length = 4 := rfl
@[simp] theorem cfrBytes_length (cfg : Config.Params) (k : SweepKind) : (cfrBytes cfg k).length = 3 := rfl
@[simp] theorem lsrrBytes_length (rr fr : Byte) : (lsrrBytes rr fr).length = 2 := rfl
@[simp] theorem fr1Bytes_length (cfg : Config.Params) (r : Fin 21) : (fr1Bytes cfg r).length = 3 := rfl

/-- The csr merge as a sum (R146). -/
theorem csrMerge_toNat (old : Byte) (m : BitVec 4) : (csrMerge old m).toNat = m.toNat * 16 + old.toNat % 8 := by
  revert old m
  decide +revert

/-- The one-hot mask of a channel as a power of two. -/
theorem chanMask_toNat (c : Chan) : (chanMask c).toNat = 2 ^ c.val := by
  revert c
  decide

/-- The csr value that a sweep or a stepper action selects (R223, R265). -/
theorem csrMerge_chanMask_toNat (old : Byte) (c : Chan) :
    (csrMerge old (chanMask c)).toNat = 2 ^ (4 + c.val) + old.toNat % 8 := by
  rw [csrMerge_toNat, chanMask_toNat, Nat.pow_add]
  omega

/-- The merge never changes bits [2:0] (R25). -/
theorem csrMerge_low (old : Byte) (m : BitVec 4) : csrMerge old m &&& 0x07#8 = old &&& 0x07#8 := by
  revert old m
  decide +revert

/-- A conversion has no value exactly in the ClockZero case (R141). -/
theorem ftwOf_eq_none {k : Kind} {w clk : Nat} : ftwOf k w clk = none ↔ k = .domain ∧ clk = 0 := by
  cases k <;> simp [ftwOf, ftwHz]

/-- A conversion's value (R141, R142). -/
theorem ftwOf_eq_some {k : Kind} {w clk : Nat} (h : k = .raw ∨ clk ≠ 0) :
    ftwOf k w clk = some (if k = .domain then w * 2 ^ 32 / clk % 2 ^ 32 else w) := by
  cases k with
  | raw => simp [ftwOf]
  | domain => simp [ftwOf, ftwHz, show clk ≠ 0 by simpa using h]

/-- A clock is zero as a number exactly where it is zero as a register. -/
theorem clk_toNat_eq_zero {clk : BitVec 64} : clk.toNat = 0 ↔ clk = 0#64 := by
  constructor
  · intro h; exact BitVec.eq_of_toNat_eq (by simpa using h)
  · rintro rfl; rfl

/-- The POW of a word below 2^14 (R144). -/
theorem powOf_lt (k : Kind) (w : Nat) : powOf k w < 2 ^ 14 := by
  cases k <;> simp only [powOf, powDeg] <;> omega

/-- The ten bits of an ACW (R145). -/
theorem acw_lt (fs : Nat) (k : Kind) (w : Nat) : acw fs k w < 1024 := Nat.mod_lt _ (by decide)

/-- A phase sweep's word as quotients (R149). -/
theorem phaseSweepBytes_eq (x : Nat) :
    phaseSweepBytes x = [BitVec.ofNat 8 (x / 2 ^ 6), BitVec.ofNat 8 (x % 2 ^ 6 * 4), 0x00#8, 0x00#8] := by
  rw [phaseSweepBytes, Nat.shiftLeft_eq, bytesBE_four]
  congr 1
  · congr 1; omega
  congr 1
  · apply BitVec.eq_of_toNat_eq; simp only [BitVec.toNat_ofNat]; omega
  congr 1
  · apply BitVec.eq_of_toNat_eq; simp only [BitVec.toNat_ofNat]; omega
  congr 1
  · apply BitVec.eq_of_toNat_eq; simp only [BitVec.toNat_ofNat]; omega

/-- The amplitude payload as quotients (R147). -/
theorem ampBytes_eq {a : Nat} (ha : a < 1024) :
    ampBytes a = [0x00#8, BitVec.ofNat 8 (0x10 + a / 2 ^ 8), BitVec.ofNat 8 a] := by
  have e1 : (a >>> 8) &&& 3 = a / 2 ^ 8 := by
    rw [Nat.shiftRight_eq_div_pow, show (3 : Nat) = 2 ^ 2 - 1 from rfl, Nat.and_two_pow_sub_one_eq_mod]
    omega
  have e2 : BitVec.ofNat 8 (a &&& 0xFF) = BitVec.ofNat 8 a := by
    apply BitVec.eq_of_toNat_eq
    rw [show (0xFF : Nat) = 2 ^ 8 - 1 from rfl, Nat.and_two_pow_sub_one_eq_mod]
    simp
  rw [ampBytes, e1, e2]
  have hb : a / 2 ^ 8 < 4 := by omega
  generalize a / 2 ^ 8 = b at hb
  congr 2
  revert b
  decide

/-- An amplitude sweep's end word as quotients (R151). -/
theorem ampEndBytes_eq (a : Nat) :
    ampEndBytes a = [BitVec.ofNat 8 (a / 4), BitVec.ofNat 8 (a % 4 * 64), 0x00#8, 0x00#8] := by
  rw [ampEndBytes, Nat.shiftLeft_eq, bytesBE_four]
  congr 1
  · congr 1; omega
  congr 1
  · apply BitVec.eq_of_toNat_eq; simp only [BitVec.toNat_ofNat]; omega
  congr 1
  · apply BitVec.eq_of_toNat_eq; simp only [BitVec.toNat_ofNat]; omega
  congr 1
  · apply BitVec.eq_of_toNat_eq; simp only [BitVec.toNat_ofNat]; omega

/-- An amplitude sweep's delta word: the two low bits are lost (R152). -/
theorem ampDeltaBytes_eq (a : Nat) : ampDeltaBytes a = [BitVec.ofNat 8 (a / 4), 0x00#8, 0x00#8, 0x00#8] := by
  have e : (a <<< 8) &&& 0xFF = 0 := by
    rw [Nat.shiftLeft_eq, show (0xFF : Nat) = 2 ^ 8 - 1 from rfl, Nat.and_two_pow_sub_one_eq_mod]
    omega
  rw [ampDeltaBytes, e, Nat.shiftRight_eq_div_pow]

end Sys2Proof.Machine
end

