-- ==== Sys2Proof/Laws/Decode.lean ====
section
/-! SUPPORT. The header's fields as the encoder lays them out and the decoder reads them, and what a decoded command says
of the words it came from. -/

namespace Sys2Proof

/-! ## Fields of a header -/

/-- The header as a number: no field reaches into another (R101). -/
theorem header_toNat (o : Op) (ch : Chan) (v k : Bool) (imm : Byte) :
    (header o ch v k imm).toNat =
      o.code.toNat + ch.val * 2 ^ 8 + v.toNat * 2 ^ 10 + k.toNat * 2 ^ 11 + imm.toNat * 2 ^ 16 := by
  have h1 := ch.isLt
  have h2 := imm.isLt
  have h3 := o.code.isLt
  have h4 := Bool.toNat_le v
  have h5 := Bool.toNat_le k
  simp only [header, BitVec.toNat_ofNat]
  omega

@[simp] theorem hdrOp_header (o : Op) (ch : Chan) (v k : Bool) (imm : Byte) :
    hdrOp (header o ch v k imm) = o.code := by
  have h3 := o.code.isLt
  apply BitVec.eq_of_toNat_eq
  simp only [hdrOp, BitVec.extractLsb'_toNat, header_toNat, Nat.shiftRight_eq_div_pow]
  omega

@[simp] theorem hdrCh_header (o : Op) (ch : Chan) (v k : Bool) (imm : Byte) :
    hdrCh (header o ch v k imm) = ch := by
  have h1 := ch.isLt
  have h3 := o.code.isLt
  have h4 := Bool.toNat_le v
  apply Fin.ext
  show ((header o ch v k imm).extractLsb' 8 2).toNat = ch.val
  simp only [BitVec.extractLsb'_toNat, header_toNat, Nat.shiftRight_eq_div_pow]
  omega

/-- A bit of a word as a remainder. -/
theorem getLsbD_eq_div_mod (h : Word) (i : Nat) : h.getLsbD i = decide (h.toNat / 2 ^ i % 2 = 1) := by
  rw [BitVec.getLsbD, Nat.testBit_eq_decide_div_mod_eq]

@[simp] theorem hdrV_header (o : Op) (ch : Chan) (v k : Bool) (imm : Byte) :
    hdrV (header o ch v k imm) = v := by
  have h1 := ch.isLt
  have h3 := o.code.isLt
  rw [hdrV, getLsbD_eq_div_mod, header_toNat]
  cases v <;> simp <;> omega

@[simp] theorem hdrK_header (o : Op) (ch : Chan) (v k : Bool) (imm : Byte) :
    hdrK (header o ch v k imm) = if k then .domain else .raw := by
  have h1 := ch.isLt
  have h3 := o.code.isLt
  have h4 := Bool.toNat_le v
  have : (header o ch v k imm).getLsbD 11 = k := by
    rw [getLsbD_eq_div_mod, header_toNat]
    cases k <;> simp <;> omega
  rw [hdrK, this]

@[simp] theorem hdrImm8_header (o : Op) (ch : Chan) (v k : Bool) (imm : Byte) :
    hdrImm8 (header o ch v k imm) = imm := by
  have h1 := ch.isLt
  have h2 := imm.isLt
  have h3 := o.code.isLt
  have h4 := Bool.toNat_le v
  have h5 := Bool.toNat_le k
  apply BitVec.eq_of_toNat_eq
  simp only [hdrImm8, BitVec.extractLsb'_toNat, header_toNat, Nat.shiftRight_eq_div_pow]
  omega

/-- SELECT's mask is the low half of imm8. -/
theorem hdrMask_eq (h : Word) : hdrMask h = (hdrImm8 h).setWidth 4 := by
  apply BitVec.eq_of_toNat_eq
  simp only [hdrMask, hdrImm8, BitVec.extractLsb'_toNat, BitVec.toNat_setWidth, Nat.shiftRight_eq_div_pow]
  omega

/-- TLOAD's length is the low seven bits of imm8. -/
theorem hdrLen_eq (h : Word) : hdrLen h = (hdrImm8 h).toNat % 128 := by
  simp only [hdrLen, hdrImm8, BitVec.extractLsb'_toNat, Nat.shiftRight_eq_div_pow]
  omega

/-- POLL's step level is imm8[0]. -/
theorem hdrStep_eq (h : Word) : hdrStep h = levelOfBit ((hdrImm8 h).getLsbD 0) := by
  simp [hdrStep, hdrImm8]

/-- POLL's rst level is imm8[1]. -/
theorem hdrRst_eq (h : Word) : hdrRst h = levelOfBit ((hdrImm8 h).getLsbD 1) := by
  simp [hdrRst, hdrImm8]

@[simp] theorem opOfCode_code (o : Op) : opOfCode o.code = some o := by
  cases o <;> rfl

/-! ## What a decoded command says of its words -/

/-- The checks of R111 that a header and the words after it pass, for the row `o` of R107. -/
def RowPasses (o : Op) (h : Word) (ws : List Word) : Prop :=
  h &&& o.mask = o.pattern ∧ (o = .tload → 1 ≤ hdrLen h ∧ hdrLen h ≤ Config.tableMax) ∧ o.count h ≤ ws.length

/-- R111 run on a row whose checks pass builds the command. -/
theorem decodeRow_of_passes {o : Op} {h : Word} {ws : List Word} (hp : RowPasses o h ws) :
    decodeRow o h ws = buildInstr o h ws := by
  obtain ⟨h1, h2, h3⟩ := hp
  have h4 : ¬(o = .tload ∧ (hdrLen h = 0 ∨ hdrLen h > Config.tableMax)) := by
    rintro ⟨ho, hl⟩
    have := h2 ho
    omega
  simp only [decodeRow, ne_eq, h1, not_true_eq_false, if_false, h4, Nat.not_lt.2 h3]

/-- Inversion of R111 on one row: a command comes only from a row whose checks pass. -/
theorem decodeRow_ok {o : Op} {h : Word} {ws : List Word} {i : Instr} (hd : decodeRow o h ws = .ok i) :
    RowPasses o h ws ∧ buildInstr o h ws = .ok i := by
  unfold decodeRow at hd
  split at hd
  · exact nomatch hd
  · split at hd
    · exact nomatch hd
    · split at hd
      · exact nomatch hd
      · next h1 h2 h3 =>
        refine ⟨⟨by simpa using h1, fun ho => ?_, Nat.le_of_not_lt h3⟩, hd⟩
        by_contra hc
        exact h2 ⟨ho, by omega⟩

/-- Inversion of decode: which words a command came from. -/
theorem decode_ok {ws : List Word} {i : Instr} (hd : decode ws = .ok i) :
    ∃ h tl o, ws = h :: tl ∧ opOfCode (hdrOp h) = some o ∧ RowPasses o h tl ∧ buildInstr o h tl = .ok i := by
  cases ws with
  | nil => exact nomatch hd
  | cons h tl =>
    simp only [decode] at hd
    split at hd
    · exact nomatch hd
    · next o ho => exact ⟨h, tl, o, rfl, ho, decodeRow_ok hd⟩

/-- A sweep's operands are built exactly where w4[31:16] is zero (R109). -/
theorem decodeSweepOps_ok {ws : List Word} {p : SweepOps} (h : decodeSweepOps ws = .ok p) :
    (operand ws 4).extractLsb' 16 16 = 0#16 ∧
    p = { start := operand ws 0, stop := operand ws 1, rdelta := operand ws 2, fdelta := operand ws 3
          rrate := (operand ws 4).extractLsb' 0 8, frate := (operand ws 4).extractLsb' 8 8, hold := operand ws 5 } := by
  unfold decodeSweepOps at h
  split at h
  · next h0 => exact ⟨h0, (Except.ok.inj h).symm⟩
  · exact nomatch h

/-- The command of a row has the row's operand count (R106). -/
theorem buildInstr_operandCount {o : Op} {h : Word} {ws : List Word} {i : Instr} (hc : o.count h ≤ ws.length)
    (hb : buildInstr o h ws = .ok i) : i.operandCount = o.count h := by
  cases o <;> simp only [buildInstr] at hb
  case swpf | swpp | swpa =>
    cases hs : decodeSweepOps ws <;> rw [hs] at hb <;> simp only [Except.map] at hb
    · exact nomatch hb
    · cases hb; rfl
  all_goals cases hb
  case tload => simpa [Instr.operandCount, Op.count] using hc
  all_goals rfl

/-- A decoded command is well formed, and all its words stand in the stream (R106, R111). -/
theorem decode_ok_wf {ws : List Word} {i : Instr} (hd : decode ws = .ok i) :
    i.wf = true ∧ 1 + i.operandCount ≤ ws.length := by
  obtain ⟨h, tl, o, rfl, -, ⟨-, hl, hc⟩, hb⟩ := decode_ok hd
  have hn := buildInstr_operandCount hc hb
  refine ⟨?_, by simp only [List.length_cons]; omega⟩
  cases i with
  | tload ch k es =>
    cases o <;> simp only [buildInstr] at hb
    case swpf | swpp | swpa => cases hs : decodeSweepOps tl <;> rw [hs] at hb <;> exact nomatch hb
    case tload =>
      have := hl rfl
      simp only [Instr.operandCount, Op.count] at hn
      simp only [Instr.wf, decide_eq_true_eq]
      omega
    all_goals exact nomatch hb
  | _ => rfl

theorem operandWords_length (i : Instr) : (operandWords i).length = i.operandCount := by
  cases i <;> rfl

theorem encode_length (i : Instr) : (encode i).length = 1 + i.operandCount := by
  simp [encode, operandWords_length, Nat.add_comm]

/-! ## Headers as numbers -/

/-- The opcode byte of a header as a remainder. -/
theorem hdrOp_toNat (h : Word) : (hdrOp h).toNat = h.toNat % 256 := by
  simp only [hdrOp, BitVec.extractLsb'_toNat, Nat.shiftRight_eq_div_pow]
  omega

/-- A header with a row's opcode byte names that row. -/
theorem opOfCode_of_code {h : Word} {o : Op} (e : o.code.toNat = h.toNat % 256) : opOfCode (hdrOp h) = some o := by
  rw [show hdrOp h = o.code from BitVec.eq_of_toNat_eq (by rw [hdrOp_toNat, e]), opOfCode_code]

/-- A header with a reserved opcode names no row (R108). -/
theorem opOfCode_of_reserved {h : Word} (e : h.toNat % 256 = 0 ∨ 12 < h.toNat % 256) : opOfCode (hdrOp h) = none := by
  unfold opOfCode
  rw [hdrOp_toNat]
  generalize h.toNat % 256 = n at e
  split <;> first | omega | rfl

/-- A header that matches a row of R107 has the row's opcode byte. -/
theorem code_of_pattern {h : Word} {o : Op} (e : h &&& o.mask = o.pattern) : o.code.toNat = h.toNat % 256 := by
  have h1 := congrArg (fun x : Word => x.toNat % 256) e
  have h2 : (h.toNat &&& o.mask.toNat) % 256 = h.toNat % 256 := by
    have h3 : o.mask.toNat % 256 = 255 := by cases o <;> decide
    rw [show (256 : Nat) = 2 ^ 8 from rfl] at *
    rw [Nat.and_mod_two_pow, h3, show (255 : Nat) = 2 ^ 8 - 1 from rfl, Nat.and_two_pow_sub_one_eq_mod, Nat.mod_mod]
  simp only [BitVec.toNat_and, h2] at h1
  rw [h1]
  cases o <;> decide

/-- TLOAD's length as a quotient (R104). -/
theorem hdrLen_eq_div (h : Word) : hdrLen h = h.toNat / 2 ^ 16 % 128 := by
  simp only [hdrLen, BitVec.extractLsb'_toNat, Nat.shiftRight_eq_div_pow]

/-- The reserved half of w4 is zero exactly where w4 is below 2^16 (R109). -/
theorem highHalf_eq_zero (x : Word) : x.extractLsb' 16 16 = 0#16 ↔ x.toNat < 2 ^ 16 := by
  constructor
  · intro h
    have := congrArg BitVec.toNat h
    simp only [BitVec.extractLsb'_toNat, Nat.shiftRight_eq_div_pow, BitVec.toNat_ofNat] at this
    have := x.isLt
    omega
  · intro h
    apply BitVec.eq_of_toNat_eq
    simp only [BitVec.extractLsb'_toNat, Nat.shiftRight_eq_div_pow, BitVec.toNat_ofNat]
    omega

/-- A field that a mask covers is the pattern's field. -/
theorem extract_of_masked {h m p : Word} (e : h &&& m = p) (i n : Nat) (hm : m.extractLsb' i n = BitVec.allOnes n) :
    h.extractLsb' i n = p.extractLsb' i n := by
  rw [← e]
  ext j hj
  have h1 := congrArg (fun x => x.getLsbD j) hm
  simp only [BitVec.getLsbD_extractLsb', hj, decide_true, Bool.true_and, BitVec.getLsbD_allOnes] at h1
  simp [h1]

/-- The K bit of the kind a header carries is the header's bit. -/
theorem hdrK_bit (h : Word) : (hdrK h).bit = h.getLsbD 11 := by
  unfold hdrK
  cases h.getLsbD 11 <;> rfl

/-- A word with a header's fields and zero reserved bits is that header (R101). -/
theorem eq_header {h : Word} {o : Op} {ch : Chan} {v k : Bool} {imm : Byte} (h1 : hdrOp h = o.code) (h2 : hdrCh h = ch)
    (h3 : hdrV h = v) (h4 : h.getLsbD 11 = k) (h5 : h.extractLsb' 12 4 = 0#4) (h6 : hdrImm8 h = imm)
    (h7 : h.extractLsb' 24 8 = 0#8) : h = header o ch v k imm := by
  apply BitVec.eq_of_toNat_eq
  rw [header_toNat]
  have hl := h.isLt
  have e1 := congrArg BitVec.toNat h1
  have e2 : h.toNat / 2 ^ 8 % 4 = ch.val := by
    rw [← congrArg Fin.val h2]
    show _ = (h.extractLsb' 8 2).toNat
    simp [BitVec.extractLsb'_toNat, Nat.shiftRight_eq_div_pow]
  have e3 : v.toNat = h.toNat / 2 ^ 10 % 2 := by
    subst h3
    rw [hdrV, getLsbD_eq_div_mod]
    rcases Nat.mod_two_eq_zero_or_one (h.toNat / 2 ^ 10) with e | e <;> rw [e] <;> rfl
  have e4 : k.toNat = h.toNat / 2 ^ 11 % 2 := by
    subst h4
    rw [getLsbD_eq_div_mod]
    rcases Nat.mod_two_eq_zero_or_one (h.toNat / 2 ^ 11) with e | e <;> rw [e] <;> rfl
  have e5 := congrArg BitVec.toNat h5
  have e6 := congrArg BitVec.toNat h6
  have e7 := congrArg BitVec.toNat h7
  simp only [hdrOp, hdrImm8, BitVec.extractLsb'_toNat, Nat.shiftRight_eq_div_pow, BitVec.toNat_ofNat] at e1 e5 e6 e7
  omega

/-- The header of every command matches its row of R107. -/
theorem encodeHeader_matches (i : Instr) : ∃ o : Op, ∃ ch v k imm, encodeHeader i = header o ch v k imm ∧
    header o ch v k imm &&& o.mask = o.pattern := by
  cases i with
  | setclk _ => exact ⟨_, _, _, _, _, rfl, by decide⟩
  | init v r => exact ⟨_, _, _, _, _, rfl, by revert v r; decide⟩
  | select m => exact ⟨_, _, _, _, _, rfl, by revert m; decide⟩
  | setf v k _ => exact ⟨_, _, _, _, _, rfl, by cases v <;> cases k <;> decide⟩
  | setp k _ => exact ⟨_, _, _, _, _, rfl, by cases k <;> decide⟩
  | seta v k _ => exact ⟨_, _, _, _, _, rfl, by cases v <;> cases k <;> decide⟩
  | commit => exact ⟨_, _, _, _, _, rfl, by decide⟩
  | swpf ch v k _ => exact ⟨_, _, _, _, _, rfl, by cases k <;> revert ch v <;> decide⟩
  | swpp ch k _ => exact ⟨_, _, _, _, _, rfl, by cases k <;> revert ch <;> decide⟩
  | swpa ch v k _ => exact ⟨_, _, _, _, _, rfl, by cases k <;> revert ch v <;> decide⟩
  | tload ch k es =>
    refine ⟨_, _, _, _, _, rfl, ?_⟩
    have hn : es.length % 2 ^ 7 < 128 := Nat.mod_lt _ (by decide)
    generalize es.length % 2 ^ 7 = n at hn
    revert n ch
    cases k <;> decide
  | poll ch a b => exact ⟨_, _, _, _, _, rfl, by cases a <;> cases b <;> revert ch <;> decide⟩

/-- A sweep's operands are read back from their words, whatever follows (R105). -/
theorem decodeSweepOps_words (p : SweepOps) (rest : List Word) : decodeSweepOps (p.words ++ rest) = .ok p := by
  have h1 := p.rrate.isLt
  have h2 := p.frate.isLt
  have e1 : (BitVec.ofNat 32 (p.rrate.toNat + p.frate.toNat * 2 ^ 8)).extractLsb' 16 16 = 0#16 := by
    rw [highHalf_eq_zero, BitVec.toNat_ofNat]
    omega
  have e2 : (BitVec.ofNat 32 (p.rrate.toNat + p.frate.toNat * 2 ^ 8)).extractLsb' 0 8 = p.rrate := by
    apply BitVec.eq_of_toNat_eq
    simp only [BitVec.extractLsb'_toNat, BitVec.toNat_ofNat, Nat.shiftRight_eq_div_pow]
    omega
  have e3 : (BitVec.ofNat 32 (p.rrate.toNat + p.frate.toNat * 2 ^ 8)).extractLsb' 8 8 = p.frate := by
    apply BitVec.eq_of_toNat_eq
    simp only [BitVec.extractLsb'_toNat, BitVec.toNat_ofNat, Nat.shiftRight_eq_div_pow]
    omega
  simp only [decodeSweepOps, operand, SweepOps.words, List.cons_append, List.nil_append, List.getD_cons_succ,
    List.getD_cons_zero, e1, e2, e3, if_true]

end Sys2Proof
end

