-- ==== Sys2Proof/Laws/Event.lean ====
section
/-! SUPPORT. What a receiver takes from the lines (R65): one bit of each clock cycle, and nothing between frames. -/

namespace Sys2Proof.Machine

/-- A byte's bits in a frame's order, as bit numbers counted down from 7. -/
theorem bitsMsbFirst_eq (b : Byte) : bitsMsbFirst b = (List.range 8).map fun j => b.getLsbD (7 - j) := rfl

/-- From an idle clock, one cycle gives its bit and leaves the clock idle. -/
@[simp] theorem sampledBits_clockCycle (d b : Bool) (ws : List WireItem) :
    sampledBits d .low (clockCycle b ++ ws) = b :: sampledBits b .low ws := rfl

/-- From an idle clock, the cycles of a list of bits give the list. -/
theorem sampledBits_clockCycles (bs : List Bool) (d : Bool) (ws : List WireItem) :
    sampledBits d .low (bs.flatMap clockCycle ++ ws) = bs ++ sampledBits (bs.getLastD d) .low ws := by
  induction bs generalizing d with
  | nil => rfl
  | cons b bs ih =>
    rw [List.flatMap_cons, List.append_assoc, sampledBits_clockCycle, ih, List.cons_append]
    cases bs <;> rfl

/-- A frame's line items with the bits of all its bytes in one list. -/
theorem Event.wire_frame (addr : Byte) (payload : List Byte) :
    (Event.frame addr payload).wire =
      .chipSelect .low :: (((addr :: payload).flatMap bitsMsbFirst).flatMap clockCycle ++ [.chipSelect .high]) := by
  simp only [Event.wire, List.flatMap_assoc, List.cons_append]

end Sys2Proof.Machine
end

