-- ==== Sys2Proof/Laws/Memory.lean ====
section
/-! SUPPORT. The laws of the stepper table memory: a read after a write, and that every operation keeps the canonical
form. -/

namespace Sys2Proof.Machine

/-- A read after a write: the entry written reads as the value, every other as before. -/
theorem Memory.read_write (m : Memory) (a b : Nat) (v : Word) :
    (m.write a v).read b = if b = a then some v else m.read b := by
  induction m with
  | nil => simp [Memory.write, Memory.read]
  | cons cell m ih =>
    obtain ⟨c, w⟩ := cell
    simp only [Memory.write]
    split
    · simp [Memory.read]
    · split
      · next h => subst h; simp only [Memory.read]; split <;> simp
      · next h1 h2 =>
        simp only [Memory.read, ih]
        by_cases hb : b = c
        · subst hb; simp; intro h; exact absurd h.symm h2
        · simp [hb]

/-- Every cell of a written memory is the new one or an old one. -/
theorem Memory.mem_write {m : Memory} {a : Nat} {v : Word} {cell : Nat × Word} (h : cell ∈ m.write a v) :
    cell = (a, v) ∨ cell ∈ m := by
  induction m with
  | nil => simpa [Memory.write] using h
  | cons c m ih =>
    obtain ⟨b, w⟩ := c
    simp only [Memory.write] at h
    split at h
    · simpa using h
    · split at h
      · rcases List.mem_cons.1 h with h | h
        · exact .inl h
        · exact .inr (List.mem_cons_of_mem _ h)
      · rcases List.mem_cons.1 h with h | h
        · exact .inr (h ▸ List.mem_cons_self)
        · exact (ih h).imp id (List.mem_cons_of_mem _)

/-- A write keeps the canonical form. -/
theorem Memory.write_wf {m : Memory} {a : Nat} (v : Word) (hm : m.wf) (ha : a < memSize) : (m.write a v).wf := by
  refine ⟨?_, fun cell hc => ?_⟩
  · obtain ⟨hp, -⟩ := hm
    induction m with
    | nil => simp [Memory.write]
    | cons c m ih =>
      obtain ⟨b, w⟩ := c
      rw [List.pairwise_cons] at hp
      simp only [Memory.write]
      split
      · next h =>
        refine List.pairwise_cons.2 ⟨fun x hx => ?_, List.pairwise_cons.2 hp⟩
        rcases List.mem_cons.1 hx with rfl | hx
        · exact h
        · exact Nat.lt_trans h (hp.1 x hx)
      · split
        · next h => subst h; exact List.pairwise_cons.2 hp
        · next h1 h2 =>
          refine List.pairwise_cons.2 ⟨fun x hx => ?_, ih hp.2⟩
          rcases Memory.mem_write hx with rfl | hx
          · show b < a; omega
          · exact hp.1 x hx
  · rcases Memory.mem_write hc with rfl | hc
    · exact ha
    · exact hm.2 cell hc

/-- TLOAD's loop keeps the canonical form while it stays inside the memory. -/
theorem Memory.writeFrom_wf {m : Memory} {a : Nat} {ws : List Word} (hm : m.wf) (ha : a + ws.length ≤ memSize) :
    (m.writeFrom a ws).wf := by
  induction ws generalizing m a with
  | nil => simpa [Memory.writeFrom] using hm
  | cons w ws ih =>
    simp only [List.length_cons] at ha
    exact ih (Memory.write_wf w hm (by omega)) (by omega)

/-- A read after TLOAD's loop: the entries written read as the words in order, every other as before. -/
theorem Memory.read_writeFrom (m : Memory) (a b : Nat) (ws : List Word) :
    (m.writeFrom a ws).read b = if a ≤ b ∧ b < a + ws.length then ws[b - a]? else m.read b := by
  induction ws generalizing m a with
  | nil =>
    have h : ¬(a ≤ b ∧ b < a + ([] : List Word).length) := by simp
    simp only [Memory.writeFrom, h, if_false]
  | cons w ws ih =>
    simp only [Memory.writeFrom, ih, Memory.read_write, List.length_cons]
    by_cases h1 : b = a
    · subst h1; simp
    · by_cases h2 : a + 1 ≤ b ∧ b < a + 1 + ws.length
      · have h3 : a ≤ b ∧ b < a + (ws.length + 1) := by omega
        have h4 : b - a = (b - (a + 1)) + 1 := by omega
        simp [h2, h3, h4]
      · have h3 : ¬(a ≤ b ∧ b < a + (ws.length + 1)) := by omega
        rw [if_neg h2, if_neg h1, if_neg h3]

/-- The reset memory has the canonical form. -/
theorem Memory.wf_nil : Memory.wf [] := by decide

/-- Entries of one channel's table lie inside the memory. -/
theorem tableAddr_lt (c : Chan) (i : Nat) (h : i < Config.tableMax) : tableAddr c i < memSize := by
  have := c.isLt
  unfold tableAddr memSize Config.numChannels Config.tableMax at *
  omega

/-- Tables of different channels are disjoint (R32). -/
theorem tableAddr_inj (c d : Chan) (i j : Nat) (hi : i < Config.tableMax) (hj : j < Config.tableMax)
    (h : tableAddr c i = tableAddr d j) : c = d ∧ i = j := by
  unfold tableAddr Config.tableMax at *
  exact ⟨Fin.ext (by omega), by omega⟩

end Sys2Proof.Machine
end

