-- ==== Sys2Proof/Laws/State.lean ====
section
/-! SUPPORT. One lemma per field per update of State, each true by rfl, so that no later proof unfolds a record update. -/

namespace Sys2Proof.Machine

/-! ## emit -/

@[simp] theorem State.emit_cfg (s : State) (es : List Event) : (s.emit es).cfg = s.cfg := rfl
@[simp] theorem State.emit_stream (s : State) (es : List Event) : (s.emit es).stream = s.stream := rfl
@[simp] theorem State.emit_cp (s : State) (es : List Event) : (s.emit es).cp = s.cp := rfl
@[simp] theorem State.emit_baseClk (s : State) (es : List Event) : (s.emit es).baseClk = s.baseClk := rfl
@[simp] theorem State.emit_clk (s : State) (es : List Event) : (s.emit es).clk = s.clk := rfl
@[simp] theorem State.emit_csr (s : State) (es : List Event) : (s.emit es).csr = s.csr := rfl
@[simp] theorem State.emit_lastFreq (s : State) (es : List Event) : (s.emit es).lastFreq = s.lastFreq := rfl
@[simp] theorem State.emit_lastPhase (s : State) (es : List Event) : (s.emit es).lastPhase = s.lastPhase := rfl
@[simp] theorem State.emit_status (s : State) (es : List Event) : (s.emit es).status = s.status := rfl
@[simp] theorem State.emit_fault (s : State) (es : List Event) : (s.emit es).fault = s.fault := rfl
@[simp] theorem State.emit_sweep (s : State) (es : List Event) : (s.emit es).sweep = s.sweep := rfl
@[simp] theorem State.emit_gate (s : State) (es : List Event) : (s.emit es).gate = s.gate := rfl
@[simp] theorem State.emit_mem (s : State) (es : List Event) : (s.emit es).mem = s.mem := rfl
@[simp] theorem State.emit_steppers (s : State) (es : List Event) : (s.emit es).steppers = s.steppers := rfl
@[simp] theorem State.emit_trace (s : State) (es : List Event) : (s.emit es).trace = s.trace ++ es := rfl
@[simp] theorem State.emit_chip (s : State) (es : List Event) :
    (s.emit es).chip = s.chip.observeAll s.cfg.csrBuffered es := rfl

/-! ## complete -/

@[simp] theorem State.complete_cfg (s : State) (n : Nat) : (s.complete n).cfg = s.cfg := rfl
@[simp] theorem State.complete_stream (s : State) (n : Nat) : (s.complete n).stream = s.stream := rfl
@[simp] theorem State.complete_cp (s : State) (n : Nat) : (s.complete n).cp = s.cp + 1 + n := rfl
@[simp] theorem State.complete_baseClk (s : State) (n : Nat) : (s.complete n).baseClk = s.baseClk := rfl
@[simp] theorem State.complete_clk (s : State) (n : Nat) : (s.complete n).clk = s.clk := rfl
@[simp] theorem State.complete_csr (s : State) (n : Nat) : (s.complete n).csr = s.csr := rfl
@[simp] theorem State.complete_lastFreq (s : State) (n : Nat) : (s.complete n).lastFreq = s.lastFreq := rfl
@[simp] theorem State.complete_lastPhase (s : State) (n : Nat) : (s.complete n).lastPhase = s.lastPhase := rfl
@[simp] theorem State.complete_status (s : State) (n : Nat) : (s.complete n).status = .ok := rfl
@[simp] theorem State.complete_fault (s : State) (n : Nat) : (s.complete n).fault = s.fault := rfl
@[simp] theorem State.complete_sweep (s : State) (n : Nat) : (s.complete n).sweep = s.sweep := rfl
@[simp] theorem State.complete_gate (s : State) (n : Nat) : (s.complete n).gate = s.gate := rfl
@[simp] theorem State.complete_mem (s : State) (n : Nat) : (s.complete n).mem = s.mem := rfl
@[simp] theorem State.complete_steppers (s : State) (n : Nat) : (s.complete n).steppers = s.steppers := rfl
@[simp] theorem State.complete_trace (s : State) (n : Nat) : (s.complete n).trace = s.trace := rfl
@[simp] theorem State.complete_chip (s : State) (n : Nat) : (s.complete n).chip = s.chip := rfl

/-! ## report -/

@[simp] theorem State.report_cfg (s : State) (n : Nat) : (s.report n).cfg = s.cfg := rfl
@[simp] theorem State.report_stream (s : State) (n : Nat) : (s.report n).stream = s.stream := rfl
@[simp] theorem State.report_cp (s : State) (n : Nat) : (s.report n).cp = s.cp + 1 + n := rfl
@[simp] theorem State.report_baseClk (s : State) (n : Nat) : (s.report n).baseClk = s.baseClk := rfl
@[simp] theorem State.report_clk (s : State) (n : Nat) : (s.report n).clk = s.clk := rfl
@[simp] theorem State.report_csr (s : State) (n : Nat) : (s.report n).csr = s.csr := rfl
@[simp] theorem State.report_lastFreq (s : State) (n : Nat) : (s.report n).lastFreq = s.lastFreq := rfl
@[simp] theorem State.report_lastPhase (s : State) (n : Nat) : (s.report n).lastPhase = s.lastPhase := rfl
@[simp] theorem State.report_status (s : State) (n : Nat) : (s.report n).status = .invalidParameter := rfl
@[simp] theorem State.report_fault (s : State) (n : Nat) : (s.report n).fault = s.fault := rfl
@[simp] theorem State.report_sweep (s : State) (n : Nat) : (s.report n).sweep = s.sweep := rfl
@[simp] theorem State.report_gate (s : State) (n : Nat) : (s.report n).gate = s.gate := rfl
@[simp] theorem State.report_mem (s : State) (n : Nat) : (s.report n).mem = s.mem := rfl
@[simp] theorem State.report_steppers (s : State) (n : Nat) : (s.report n).steppers = s.steppers := rfl
@[simp] theorem State.report_trace (s : State) (n : Nat) : (s.report n).trace = s.trace := rfl
@[simp] theorem State.report_chip (s : State) (n : Nat) : (s.report n).chip = s.chip := rfl

/-! ## raise -/

@[simp] theorem State.raise_cfg (s : State) (k : FaultKind) : (s.raise k).cfg = s.cfg := rfl
@[simp] theorem State.raise_stream (s : State) (k : FaultKind) : (s.raise k).stream = s.stream := rfl
@[simp] theorem State.raise_cp (s : State) (k : FaultKind) : (s.raise k).cp = s.cp := rfl
@[simp] theorem State.raise_baseClk (s : State) (k : FaultKind) : (s.raise k).baseClk = s.baseClk := rfl
@[simp] theorem State.raise_clk (s : State) (k : FaultKind) : (s.raise k).clk = s.clk := rfl
@[simp] theorem State.raise_csr (s : State) (k : FaultKind) : (s.raise k).csr = s.csr := rfl
@[simp] theorem State.raise_lastFreq (s : State) (k : FaultKind) : (s.raise k).lastFreq = s.lastFreq := rfl
@[simp] theorem State.raise_lastPhase (s : State) (k : FaultKind) : (s.raise k).lastPhase = s.lastPhase := rfl
@[simp] theorem State.raise_status (s : State) (k : FaultKind) : (s.raise k).status = s.status := rfl
@[simp] theorem State.raise_fault (s : State) (k : FaultKind) : (s.raise k).fault = some k := rfl
@[simp] theorem State.raise_sweep (s : State) (k : FaultKind) : (s.raise k).sweep = s.sweep := rfl
@[simp] theorem State.raise_gate (s : State) (k : FaultKind) : (s.raise k).gate = s.gate := rfl
@[simp] theorem State.raise_mem (s : State) (k : FaultKind) : (s.raise k).mem = s.mem := rfl
@[simp] theorem State.raise_steppers (s : State) (k : FaultKind) : (s.raise k).steppers = s.steppers := rfl
@[simp] theorem State.raise_trace (s : State) (k : FaultKind) : (s.raise k).trace = s.trace := rfl
@[simp] theorem State.raise_chip (s : State) (k : FaultKind) : (s.raise k).chip = s.chip := rfl

/-! ## setClock -/

@[simp] theorem State.setClock_cfg (s : State) (hz : Word) : (s.setClock hz).cfg = s.cfg := rfl
@[simp] theorem State.setClock_stream (s : State) (hz : Word) : (s.setClock hz).stream = s.stream := rfl
@[simp] theorem State.setClock_cp (s : State) (hz : Word) : (s.setClock hz).cp = s.cp := rfl
@[simp] theorem State.setClock_baseClk (s : State) (hz : Word) : (s.setClock hz).baseClk = hz := rfl
@[simp] theorem State.setClock_clk (s : State) (hz : Word) : (s.setClock hz).clk = hz.setWidth 64 := rfl
@[simp] theorem State.setClock_csr (s : State) (hz : Word) : (s.setClock hz).csr = s.csr := rfl
@[simp] theorem State.setClock_lastFreq (s : State) (hz : Word) : (s.setClock hz).lastFreq = s.lastFreq := rfl
@[simp] theorem State.setClock_lastPhase (s : State) (hz : Word) : (s.setClock hz).lastPhase = s.lastPhase := rfl
@[simp] theorem State.setClock_status (s : State) (hz : Word) : (s.setClock hz).status = s.status := rfl
@[simp] theorem State.setClock_fault (s : State) (hz : Word) : (s.setClock hz).fault = s.fault := rfl
@[simp] theorem State.setClock_sweep (s : State) (hz : Word) : (s.setClock hz).sweep = s.sweep := rfl
@[simp] theorem State.setClock_gate (s : State) (hz : Word) : (s.setClock hz).gate = s.gate := rfl
@[simp] theorem State.setClock_mem (s : State) (hz : Word) : (s.setClock hz).mem = s.mem := rfl
@[simp] theorem State.setClock_steppers (s : State) (hz : Word) : (s.setClock hz).steppers = s.steppers := rfl
@[simp] theorem State.setClock_trace (s : State) (hz : Word) : (s.setClock hz).trace = s.trace := rfl
@[simp] theorem State.setClock_chip (s : State) (hz : Word) : (s.setClock hz).chip = s.chip := rfl

/-! ## scaleClock -/

@[simp] theorem State.scaleClock_cfg (s : State) (r : Nat) : (s.scaleClock r).cfg = s.cfg := rfl
@[simp] theorem State.scaleClock_stream (s : State) (r : Nat) : (s.scaleClock r).stream = s.stream := rfl
@[simp] theorem State.scaleClock_cp (s : State) (r : Nat) : (s.scaleClock r).cp = s.cp := rfl
@[simp] theorem State.scaleClock_baseClk (s : State) (r : Nat) : (s.scaleClock r).baseClk = s.baseClk := rfl
@[simp] theorem State.scaleClock_clk (s : State) (r : Nat) :
    (s.scaleClock r).clk = (match s.cfg.clockMode with
      | .compound => BitVec.ofNat 64 (s.clk.toNat * r)
      | .idempotent => BitVec.ofNat 64 (s.baseClk.toNat * r)) := rfl
@[simp] theorem State.scaleClock_csr (s : State) (r : Nat) : (s.scaleClock r).csr = s.csr := rfl
@[simp] theorem State.scaleClock_lastFreq (s : State) (r : Nat) : (s.scaleClock r).lastFreq = s.lastFreq := rfl
@[simp] theorem State.scaleClock_lastPhase (s : State) (r : Nat) : (s.scaleClock r).lastPhase = s.lastPhase := rfl
@[simp] theorem State.scaleClock_status (s : State) (r : Nat) : (s.scaleClock r).status = s.status := rfl
@[simp] theorem State.scaleClock_fault (s : State) (r : Nat) : (s.scaleClock r).fault = s.fault := rfl
@[simp] theorem State.scaleClock_sweep (s : State) (r : Nat) : (s.scaleClock r).sweep = s.sweep := rfl
@[simp] theorem State.scaleClock_gate (s : State) (r : Nat) : (s.scaleClock r).gate = s.gate := rfl
@[simp] theorem State.scaleClock_mem (s : State) (r : Nat) : (s.scaleClock r).mem = s.mem := rfl
@[simp] theorem State.scaleClock_steppers (s : State) (r : Nat) : (s.scaleClock r).steppers = s.steppers := rfl
@[simp] theorem State.scaleClock_trace (s : State) (r : Nat) : (s.scaleClock r).trace = s.trace := rfl
@[simp] theorem State.scaleClock_chip (s : State) (r : Nat) : (s.scaleClock r).chip = s.chip := rfl

/-! ## selectMask -/

@[simp] theorem State.selectMask_cfg (s : State) (m : BitVec 4) : (s.selectMask m).cfg = s.cfg := rfl
@[simp] theorem State.selectMask_stream (s : State) (m : BitVec 4) : (s.selectMask m).stream = s.stream := rfl
@[simp] theorem State.selectMask_cp (s : State) (m : BitVec 4) : (s.selectMask m).cp = s.cp := rfl
@[simp] theorem State.selectMask_baseClk (s : State) (m : BitVec 4) : (s.selectMask m).baseClk = s.baseClk := rfl
@[simp] theorem State.selectMask_clk (s : State) (m : BitVec 4) : (s.selectMask m).clk = s.clk := rfl
@[simp] theorem State.selectMask_csr (s : State) (m : BitVec 4) : (s.selectMask m).csr = csrMerge s.csr m := rfl
@[simp] theorem State.selectMask_lastFreq (s : State) (m : BitVec 4) : (s.selectMask m).lastFreq = s.lastFreq := rfl
@[simp] theorem State.selectMask_lastPhase (s : State) (m : BitVec 4) :
    (s.selectMask m).lastPhase = s.lastPhase := rfl
@[simp] theorem State.selectMask_status (s : State) (m : BitVec 4) : (s.selectMask m).status = s.status := rfl
@[simp] theorem State.selectMask_fault (s : State) (m : BitVec 4) : (s.selectMask m).fault = s.fault := rfl
@[simp] theorem State.selectMask_sweep (s : State) (m : BitVec 4) : (s.selectMask m).sweep = s.sweep := rfl
@[simp] theorem State.selectMask_gate (s : State) (m : BitVec 4) : (s.selectMask m).gate = s.gate := rfl
@[simp] theorem State.selectMask_mem (s : State) (m : BitVec 4) : (s.selectMask m).mem = s.mem := rfl
@[simp] theorem State.selectMask_steppers (s : State) (m : BitVec 4) : (s.selectMask m).steppers = s.steppers := rfl
@[simp] theorem State.selectMask_trace (s : State) (m : BitVec 4) :
    (s.selectMask m).trace = s.trace ++ [.frame addrCsr [csrMerge s.csr m]] := rfl
@[simp] theorem State.selectMask_chip (s : State) (m : BitVec 4) :
    (s.selectMask m).chip = s.chip.observeAll s.cfg.csrBuffered [.frame addrCsr [csrMerge s.csr m]] := rfl

/-! ## setLastFreq -/

@[simp] theorem State.setLastFreq_cfg (s : State) (k : Kind) (w : Word) : (s.setLastFreq k w).cfg = s.cfg := rfl
@[simp] theorem State.setLastFreq_stream (s : State) (k : Kind) (w : Word) :
    (s.setLastFreq k w).stream = s.stream := rfl
@[simp] theorem State.setLastFreq_cp (s : State) (k : Kind) (w : Word) : (s.setLastFreq k w).cp = s.cp := rfl
@[simp] theorem State.setLastFreq_baseClk (s : State) (k : Kind) (w : Word) :
    (s.setLastFreq k w).baseClk = s.baseClk := rfl
@[simp] theorem State.setLastFreq_clk (s : State) (k : Kind) (w : Word) : (s.setLastFreq k w).clk = s.clk := rfl
@[simp] theorem State.setLastFreq_csr (s : State) (k : Kind) (w : Word) : (s.setLastFreq k w).csr = s.csr := rfl
@[simp] theorem State.setLastFreq_lastFreq (s : State) (k : Kind) (w : Word) :
    (s.setLastFreq k w).lastFreq = some (k, w) := rfl
@[simp] theorem State.setLastFreq_lastPhase (s : State) (k : Kind) (w : Word) :
    (s.setLastFreq k w).lastPhase = s.lastPhase := rfl
@[simp] theorem State.setLastFreq_status (s : State) (k : Kind) (w : Word) :
    (s.setLastFreq k w).status = s.status := rfl
@[simp] theorem State.setLastFreq_fault (s : State) (k : Kind) (w : Word) : (s.setLastFreq k w).fault = s.fault := rfl
@[simp] theorem State.setLastFreq_sweep (s : State) (k : Kind) (w : Word) : (s.setLastFreq k w).sweep = s.sweep := rfl
@[simp] theorem State.setLastFreq_gate (s : State) (k : Kind) (w : Word) : (s.setLastFreq k w).gate = s.gate := rfl
@[simp] theorem State.setLastFreq_mem (s : State) (k : Kind) (w : Word) : (s.setLastFreq k w).mem = s.mem := rfl
@[simp] theorem State.setLastFreq_steppers (s : State) (k : Kind) (w : Word) :
    (s.setLastFreq k w).steppers = s.steppers := rfl
@[simp] theorem State.setLastFreq_trace (s : State) (k : Kind) (w : Word) : (s.setLastFreq k w).trace = s.trace := rfl
@[simp] theorem State.setLastFreq_chip (s : State) (k : Kind) (w : Word) : (s.setLastFreq k w).chip = s.chip := rfl

/-! ## setLastPhase -/

@[simp] theorem State.setLastPhase_cfg (s : State) (k : Kind) (w : Word) : (s.setLastPhase k w).cfg = s.cfg := rfl
@[simp] theorem State.setLastPhase_stream (s : State) (k : Kind) (w : Word) :
    (s.setLastPhase k w).stream = s.stream := rfl
@[simp] theorem State.setLastPhase_cp (s : State) (k : Kind) (w : Word) : (s.setLastPhase k w).cp = s.cp := rfl
@[simp] theorem State.setLastPhase_baseClk (s : State) (k : Kind) (w : Word) :
    (s.setLastPhase k w).baseClk = s.baseClk := rfl
@[simp] theorem State.setLastPhase_clk (s : State) (k : Kind) (w : Word) : (s.setLastPhase k w).clk = s.clk := rfl
@[simp] theorem State.setLastPhase_csr (s : State) (k : Kind) (w : Word) : (s.setLastPhase k w).csr = s.csr := rfl
@[simp] theorem State.setLastPhase_lastFreq (s : State) (k : Kind) (w : Word) :
    (s.setLastPhase k w).lastFreq = s.lastFreq := rfl
@[simp] theorem State.setLastPhase_lastPhase (s : State) (k : Kind) (w : Word) :
    (s.setLastPhase k w).lastPhase = some (k, w) := rfl
@[simp] theorem State.setLastPhase_status (s : State) (k : Kind) (w : Word) :
    (s.setLastPhase k w).status = s.status := rfl
@[simp] theorem State.setLastPhase_fault (s : State) (k : Kind) (w : Word) :
    (s.setLastPhase k w).fault = s.fault := rfl
@[simp] theorem State.setLastPhase_sweep (s : State) (k : Kind) (w : Word) :
    (s.setLastPhase k w).sweep = s.sweep := rfl
@[simp] theorem State.setLastPhase_gate (s : State) (k : Kind) (w : Word) : (s.setLastPhase k w).gate = s.gate := rfl
@[simp] theorem State.setLastPhase_mem (s : State) (k : Kind) (w : Word) : (s.setLastPhase k w).mem = s.mem := rfl
@[simp] theorem State.setLastPhase_steppers (s : State) (k : Kind) (w : Word) :
    (s.setLastPhase k w).steppers = s.steppers := rfl
@[simp] theorem State.setLastPhase_trace (s : State) (k : Kind) (w : Word) :
    (s.setLastPhase k w).trace = s.trace := rfl
@[simp] theorem State.setLastPhase_chip (s : State) (k : Kind) (w : Word) : (s.setLastPhase k w).chip = s.chip := rfl

/-! ## setSweep -/

@[simp] theorem State.setSweep_cfg (s : State) (w : Sweep) : (s.setSweep w).cfg = s.cfg := rfl
@[simp] theorem State.setSweep_stream (s : State) (w : Sweep) : (s.setSweep w).stream = s.stream := rfl
@[simp] theorem State.setSweep_cp (s : State) (w : Sweep) : (s.setSweep w).cp = s.cp := rfl
@[simp] theorem State.setSweep_baseClk (s : State) (w : Sweep) : (s.setSweep w).baseClk = s.baseClk := rfl
@[simp] theorem State.setSweep_clk (s : State) (w : Sweep) : (s.setSweep w).clk = s.clk := rfl
@[simp] theorem State.setSweep_csr (s : State) (w : Sweep) : (s.setSweep w).csr = s.csr := rfl
@[simp] theorem State.setSweep_lastFreq (s : State) (w : Sweep) : (s.setSweep w).lastFreq = s.lastFreq := rfl
@[simp] theorem State.setSweep_lastPhase (s : State) (w : Sweep) : (s.setSweep w).lastPhase = s.lastPhase := rfl
@[simp] theorem State.setSweep_status (s : State) (w : Sweep) : (s.setSweep w).status = s.status := rfl
@[simp] theorem State.setSweep_fault (s : State) (w : Sweep) : (s.setSweep w).fault = s.fault := rfl
@[simp] theorem State.setSweep_sweep (s : State) (w : Sweep) : (s.setSweep w).sweep = w := rfl
@[simp] theorem State.setSweep_gate (s : State) (w : Sweep) : (s.setSweep w).gate = s.gate := rfl
@[simp] theorem State.setSweep_mem (s : State) (w : Sweep) : (s.setSweep w).mem = s.mem := rfl
@[simp] theorem State.setSweep_steppers (s : State) (w : Sweep) : (s.setSweep w).steppers = s.steppers := rfl
@[simp] theorem State.setSweep_trace (s : State) (w : Sweep) : (s.setSweep w).trace = s.trace := rfl
@[simp] theorem State.setSweep_chip (s : State) (w : Sweep) : (s.setSweep w).chip = s.chip := rfl

/-! ## driveGate -/

@[simp] theorem State.driveGate_cfg (s : State) (c : Chan) (l : Level) : (s.driveGate c l).cfg = s.cfg := rfl
@[simp] theorem State.driveGate_stream (s : State) (c : Chan) (l : Level) : (s.driveGate c l).stream = s.stream := rfl
@[simp] theorem State.driveGate_cp (s : State) (c : Chan) (l : Level) : (s.driveGate c l).cp = s.cp := rfl
@[simp] theorem State.driveGate_baseClk (s : State) (c : Chan) (l : Level) :
    (s.driveGate c l).baseClk = s.baseClk := rfl
@[simp] theorem State.driveGate_clk (s : State) (c : Chan) (l : Level) : (s.driveGate c l).clk = s.clk := rfl
@[simp] theorem State.driveGate_csr (s : State) (c : Chan) (l : Level) : (s.driveGate c l).csr = s.csr := rfl
@[simp] theorem State.driveGate_lastFreq (s : State) (c : Chan) (l : Level) :
    (s.driveGate c l).lastFreq = s.lastFreq := rfl
@[simp] theorem State.driveGate_lastPhase (s : State) (c : Chan) (l : Level) :
    (s.driveGate c l).lastPhase = s.lastPhase := rfl
@[simp] theorem State.driveGate_status (s : State) (c : Chan) (l : Level) : (s.driveGate c l).status = s.status := rfl
@[simp] theorem State.driveGate_fault (s : State) (c : Chan) (l : Level) : (s.driveGate c l).fault = s.fault := rfl
@[simp] theorem State.driveGate_sweep (s : State) (c : Chan) (l : Level) : (s.driveGate c l).sweep = s.sweep := rfl
@[simp] theorem State.driveGate_gate (s : State) (c : Chan) (l : Level) :
    (s.driveGate c l).gate = s.gate.set c.val l := rfl
@[simp] theorem State.driveGate_mem (s : State) (c : Chan) (l : Level) : (s.driveGate c l).mem = s.mem := rfl
@[simp] theorem State.driveGate_steppers (s : State) (c : Chan) (l : Level) :
    (s.driveGate c l).steppers = s.steppers := rfl
@[simp] theorem State.driveGate_trace (s : State) (c : Chan) (l : Level) :
    (s.driveGate c l).trace = s.trace ++ [.gate c l] := rfl
@[simp] theorem State.driveGate_chip (s : State) (c : Chan) (l : Level) :
    (s.driveGate c l).chip = s.chip.observeAll s.cfg.csrBuffered [.gate c l] := rfl

/-! ## endDwell -/

@[simp] theorem State.endDwell_cfg (s : State) (ctx : SweepCtx) : (s.endDwell ctx).cfg = s.cfg := rfl
@[simp] theorem State.endDwell_stream (s : State) (ctx : SweepCtx) : (s.endDwell ctx).stream = s.stream := rfl
@[simp] theorem State.endDwell_cp (s : State) (ctx : SweepCtx) : (s.endDwell ctx).cp = s.cp := rfl
@[simp] theorem State.endDwell_baseClk (s : State) (ctx : SweepCtx) : (s.endDwell ctx).baseClk = s.baseClk := rfl
@[simp] theorem State.endDwell_clk (s : State) (ctx : SweepCtx) : (s.endDwell ctx).clk = s.clk := rfl
@[simp] theorem State.endDwell_csr (s : State) (ctx : SweepCtx) : (s.endDwell ctx).csr = s.csr := rfl
@[simp] theorem State.endDwell_lastFreq (s : State) (ctx : SweepCtx) : (s.endDwell ctx).lastFreq = s.lastFreq := rfl
@[simp] theorem State.endDwell_lastPhase (s : State) (ctx : SweepCtx) :
    (s.endDwell ctx).lastPhase = s.lastPhase := rfl
@[simp] theorem State.endDwell_status (s : State) (ctx : SweepCtx) : (s.endDwell ctx).status = s.status := rfl
@[simp] theorem State.endDwell_fault (s : State) (ctx : SweepCtx) : (s.endDwell ctx).fault = s.fault := rfl
@[simp] theorem State.endDwell_sweep (s : State) (ctx : SweepCtx) : (s.endDwell ctx).sweep = s.sweep := rfl
@[simp] theorem State.endDwell_gate (s : State) (ctx : SweepCtx) : (s.endDwell ctx).gate = s.gate := rfl
@[simp] theorem State.endDwell_mem (s : State) (ctx : SweepCtx) : (s.endDwell ctx).mem = s.mem := rfl
@[simp] theorem State.endDwell_steppers (s : State) (ctx : SweepCtx) : (s.endDwell ctx).steppers = s.steppers := rfl
@[simp] theorem State.endDwell_trace (s : State) (ctx : SweepCtx) : (s.endDwell ctx).trace = s.trace := rfl
@[simp] theorem State.endDwell_chip (s : State) (ctx : SweepCtx) :
    (s.endDwell ctx).chip = if ctx.hold = 0#32 then s.chip.zeroDwell ctx.kind ctx.ch else s.chip := rfl

/-! ## setStepper -/

@[simp] theorem State.setStepper_cfg (s : State) (c : Chan) (t : Stepper) : (s.setStepper c t).cfg = s.cfg := rfl
@[simp] theorem State.setStepper_stream (s : State) (c : Chan) (t : Stepper) :
    (s.setStepper c t).stream = s.stream := rfl
@[simp] theorem State.setStepper_cp (s : State) (c : Chan) (t : Stepper) : (s.setStepper c t).cp = s.cp := rfl
@[simp] theorem State.setStepper_baseClk (s : State) (c : Chan) (t : Stepper) :
    (s.setStepper c t).baseClk = s.baseClk := rfl
@[simp] theorem State.setStepper_clk (s : State) (c : Chan) (t : Stepper) : (s.setStepper c t).clk = s.clk := rfl
@[simp] theorem State.setStepper_csr (s : State) (c : Chan) (t : Stepper) : (s.setStepper c t).csr = s.csr := rfl
@[simp] theorem State.setStepper_lastFreq (s : State) (c : Chan) (t : Stepper) :
    (s.setStepper c t).lastFreq = s.lastFreq := rfl
@[simp] theorem State.setStepper_lastPhase (s : State) (c : Chan) (t : Stepper) :
    (s.setStepper c t).lastPhase = s.lastPhase := rfl
@[simp] theorem State.setStepper_status (s : State) (c : Chan) (t : Stepper) :
    (s.setStepper c t).status = s.status := rfl
@[simp] theorem State.setStepper_fault (s : State) (c : Chan) (t : Stepper) :
    (s.setStepper c t).fault = s.fault := rfl
@[simp] theorem State.setStepper_sweep (s : State) (c : Chan) (t : Stepper) :
    (s.setStepper c t).sweep = s.sweep := rfl
@[simp] theorem State.setStepper_gate (s : State) (c : Chan) (t : Stepper) : (s.setStepper c t).gate = s.gate := rfl
@[simp] theorem State.setStepper_mem (s : State) (c : Chan) (t : Stepper) : (s.setStepper c t).mem = s.mem := rfl
@[simp] theorem State.setStepper_steppers (s : State) (c : Chan) (t : Stepper) :
    (s.setStepper c t).steppers = s.steppers.set c.val t := rfl
@[simp] theorem State.setStepper_trace (s : State) (c : Chan) (t : Stepper) :
    (s.setStepper c t).trace = s.trace := rfl
@[simp] theorem State.setStepper_chip (s : State) (c : Chan) (t : Stepper) : (s.setStepper c t).chip = s.chip := rfl

/-! ## tableWrite -/

@[simp] theorem State.tableWrite_cfg (s : State) (c : Chan) (es : List Word) : (s.tableWrite c es).cfg = s.cfg := rfl
@[simp] theorem State.tableWrite_stream (s : State) (c : Chan) (es : List Word) :
    (s.tableWrite c es).stream = s.stream := rfl
@[simp] theorem State.tableWrite_cp (s : State) (c : Chan) (es : List Word) : (s.tableWrite c es).cp = s.cp := rfl
@[simp] theorem State.tableWrite_baseClk (s : State) (c : Chan) (es : List Word) :
    (s.tableWrite c es).baseClk = s.baseClk := rfl
@[simp] theorem State.tableWrite_clk (s : State) (c : Chan) (es : List Word) : (s.tableWrite c es).clk = s.clk := rfl
@[simp] theorem State.tableWrite_csr (s : State) (c : Chan) (es : List Word) : (s.tableWrite c es).csr = s.csr := rfl
@[simp] theorem State.tableWrite_lastFreq (s : State) (c : Chan) (es : List Word) :
    (s.tableWrite c es).lastFreq = s.lastFreq := rfl
@[simp] theorem State.tableWrite_lastPhase (s : State) (c : Chan) (es : List Word) :
    (s.tableWrite c es).lastPhase = s.lastPhase := rfl
@[simp] theorem State.tableWrite_status (s : State) (c : Chan) (es : List Word) :
    (s.tableWrite c es).status = s.status := rfl
@[simp] theorem State.tableWrite_fault (s : State) (c : Chan) (es : List Word) :
    (s.tableWrite c es).fault = s.fault := rfl
@[simp] theorem State.tableWrite_sweep (s : State) (c : Chan) (es : List Word) :
    (s.tableWrite c es).sweep = s.sweep := rfl
@[simp] theorem State.tableWrite_gate (s : State) (c : Chan) (es : List Word) :
    (s.tableWrite c es).gate = s.gate := rfl
@[simp] theorem State.tableWrite_mem (s : State) (c : Chan) (es : List Word) :
    (s.tableWrite c es).mem = s.mem.writeFrom (tableAddr c 0) es := rfl
@[simp] theorem State.tableWrite_steppers (s : State) (c : Chan) (es : List Word) :
    (s.tableWrite c es).steppers = s.steppers := rfl
@[simp] theorem State.tableWrite_trace (s : State) (c : Chan) (es : List Word) :
    (s.tableWrite c es).trace = s.trace := rfl
@[simp] theorem State.tableWrite_chip (s : State) (c : Chan) (es : List Word) :
    (s.tableWrite c es).chip = s.chip := rfl

/-! ## placeWords -/

@[simp] theorem State.placeWords_cfg (s : State) (ws : List Word) : (s.placeWords ws).cfg = s.cfg := rfl
@[simp] theorem State.placeWords_stream (s : State) (ws : List Word) :
    (s.placeWords ws).stream = s.stream.take s.cp ++ List.replicate (s.cp - s.stream.length) 0#32 ++ ws := rfl
@[simp] theorem State.placeWords_cp (s : State) (ws : List Word) : (s.placeWords ws).cp = s.cp := rfl
@[simp] theorem State.placeWords_baseClk (s : State) (ws : List Word) : (s.placeWords ws).baseClk = s.baseClk := rfl
@[simp] theorem State.placeWords_clk (s : State) (ws : List Word) : (s.placeWords ws).clk = s.clk := rfl
@[simp] theorem State.placeWords_csr (s : State) (ws : List Word) : (s.placeWords ws).csr = s.csr := rfl
@[simp] theorem State.placeWords_lastFreq (s : State) (ws : List Word) :
    (s.placeWords ws).lastFreq = s.lastFreq := rfl
@[simp] theorem State.placeWords_lastPhase (s : State) (ws : List Word) :
    (s.placeWords ws).lastPhase = s.lastPhase := rfl
@[simp] theorem State.placeWords_status (s : State) (ws : List Word) : (s.placeWords ws).status = s.status := rfl
@[simp] theorem State.placeWords_fault (s : State) (ws : List Word) : (s.placeWords ws).fault = none := rfl
@[simp] theorem State.placeWords_sweep (s : State) (ws : List Word) : (s.placeWords ws).sweep = .idle := rfl
@[simp] theorem State.placeWords_gate (s : State) (ws : List Word) : (s.placeWords ws).gate = s.gate := rfl
@[simp] theorem State.placeWords_mem (s : State) (ws : List Word) : (s.placeWords ws).mem = s.mem := rfl
@[simp] theorem State.placeWords_steppers (s : State) (ws : List Word) :
    (s.placeWords ws).steppers = s.steppers := rfl
@[simp] theorem State.placeWords_trace (s : State) (ws : List Word) : (s.placeWords ws).trace = s.trace := rfl
@[simp] theorem State.placeWords_chip (s : State) (ws : List Word) : (s.placeWords ws).chip = s.chip := rfl

/-! ## Stepper channels -/

@[simp] theorem State.stepper_setStepper_self (s : State) (c : Chan) (t : Stepper) : (s.setStepper c t).stepper c = t := by
  simp [State.stepper]

theorem State.stepper_setStepper_ne (s : State) (c d : Chan) (t : Stepper) (h : c ≠ d) :
    (s.setStepper c t).stepper d = s.stepper d := by
  have hv : c.val ≠ d.val := fun e => h (Fin.ext e)
  simp [State.stepper, Vector.getElem_set_ne, hv]

/-- Reading any channel after one was replaced. -/
theorem State.stepper_setStepper (s : State) (c d : Chan) (t : Stepper) :
    (s.setStepper c t).stepper d = if c = d then t else s.stepper d := by
  by_cases h : c = d
  · subst h; simp
  · simp [h, State.stepper_setStepper_ne]

/-- Operations that keep `steppers` keep every channel's state. -/
theorem State.stepper_congr (s t : State) (c : Chan) (h : t.steppers = s.steppers) : t.stepper c = s.stepper c := by
  simp [State.stepper, h]

@[simp] theorem State.stepper_emit (s : State) (es : List Event) (c' : Chan) : (s.emit es).stepper c' = s.stepper c' := rfl
@[simp] theorem State.stepper_complete (s : State) (n : Nat) (c' : Chan) : (s.complete n).stepper c' = s.stepper c' := rfl
@[simp] theorem State.stepper_report (s : State) (n : Nat) (c' : Chan) : (s.report n).stepper c' = s.stepper c' := rfl
@[simp] theorem State.stepper_raise (s : State) (k : FaultKind) (c' : Chan) : (s.raise k).stepper c' = s.stepper c' := rfl
@[simp] theorem State.stepper_setClock (s : State) (hz : Word) (c' : Chan) : (s.setClock hz).stepper c' = s.stepper c' := rfl
@[simp] theorem State.stepper_scaleClock (s : State) (r : Nat) (c' : Chan) : (s.scaleClock r).stepper c' = s.stepper c' := rfl
@[simp] theorem State.stepper_selectMask (s : State) (m : BitVec 4) (c' : Chan) : (s.selectMask m).stepper c' = s.stepper c' := rfl
@[simp] theorem State.stepper_setLastFreq (s : State) (k : Kind) (w : Word) (c' : Chan) : (s.setLastFreq k w).stepper c' = s.stepper c' := rfl
@[simp] theorem State.stepper_setLastPhase (s : State) (k : Kind) (w : Word) (c' : Chan) : (s.setLastPhase k w).stepper c' = s.stepper c' := rfl
@[simp] theorem State.stepper_setSweep (s : State) (w : Sweep) (c' : Chan) : (s.setSweep w).stepper c' = s.stepper c' := rfl
@[simp] theorem State.stepper_driveGate (s : State) (c : Chan) (l : Level) (c' : Chan) : (s.driveGate c l).stepper c' = s.stepper c' := rfl
@[simp] theorem State.stepper_endDwell (s : State) (ctx : SweepCtx) (c' : Chan) : (s.endDwell ctx).stepper c' = s.stepper c' := rfl
@[simp] theorem State.stepper_tableWrite (s : State) (c : Chan) (es : List Word) (c' : Chan) : (s.tableWrite c es).stepper c' = s.stepper c' := rfl
@[simp] theorem State.stepper_placeWords (s : State) (ws : List Word) (c' : Chan) : (s.placeWords ws).stepper c' = s.stepper c' := rfl

/-! ## Table reads -/

@[simp] theorem State.tableRead_emit (s : State) (es : List Event) (c' : Chan) (i : Nat) :
    (s.emit es).tableRead c' i = s.tableRead c' i := rfl
@[simp] theorem State.tableRead_complete (s : State) (n : Nat) (c' : Chan) (i : Nat) :
    (s.complete n).tableRead c' i = s.tableRead c' i := rfl
@[simp] theorem State.tableRead_report (s : State) (n : Nat) (c' : Chan) (i : Nat) :
    (s.report n).tableRead c' i = s.tableRead c' i := rfl
@[simp] theorem State.tableRead_raise (s : State) (k : FaultKind) (c' : Chan) (i : Nat) :
    (s.raise k).tableRead c' i = s.tableRead c' i := rfl
@[simp] theorem State.tableRead_setClock (s : State) (hz : Word) (c' : Chan) (i : Nat) :
    (s.setClock hz).tableRead c' i = s.tableRead c' i := rfl
@[simp] theorem State.tableRead_scaleClock (s : State) (r : Nat) (c' : Chan) (i : Nat) :
    (s.scaleClock r).tableRead c' i = s.tableRead c' i := rfl
@[simp] theorem State.tableRead_selectMask (s : State) (m : BitVec 4) (c' : Chan) (i : Nat) :
    (s.selectMask m).tableRead c' i = s.tableRead c' i := rfl
@[simp] theorem State.tableRead_setLastFreq (s : State) (k : Kind) (w : Word) (c' : Chan) (i : Nat) :
    (s.setLastFreq k w).tableRead c' i = s.tableRead c' i := rfl
@[simp] theorem State.tableRead_setLastPhase (s : State) (k : Kind) (w : Word) (c' : Chan) (i : Nat) :
    (s.setLastPhase k w).tableRead c' i = s.tableRead c' i := rfl
@[simp] theorem State.tableRead_setSweep (s : State) (w : Sweep) (c' : Chan) (i : Nat) :
    (s.setSweep w).tableRead c' i = s.tableRead c' i := rfl
@[simp] theorem State.tableRead_driveGate (s : State) (c : Chan) (l : Level) (c' : Chan) (i : Nat) :
    (s.driveGate c l).tableRead c' i = s.tableRead c' i := rfl
@[simp] theorem State.tableRead_endDwell (s : State) (ctx : SweepCtx) (c' : Chan) (i : Nat) :
    (s.endDwell ctx).tableRead c' i = s.tableRead c' i := rfl
@[simp] theorem State.tableRead_setStepper (s : State) (c : Chan) (t : Stepper) (c' : Chan) (i : Nat) :
    (s.setStepper c t).tableRead c' i = s.tableRead c' i := rfl
@[simp] theorem State.tableRead_placeWords (s : State) (ws : List Word) (c' : Chan) (i : Nat) :
    (s.placeWords ws).tableRead c' i = s.tableRead c' i := rfl

end Sys2Proof.Machine
end

