-- ==== Sys2Proof/Laws/Ops.lean ====
section
/-! SUPPORT. One lemma per shared operation that says everything it can do: the program action, the two automata, the sweep
words, the step; later proofs cite these and do not unfold. -/

namespace Sys2Proof.Machine

/-! ## Sequencing and events -/

@[simp] theorem andThen_next_left (s : State) (f : State → Result) : andThen (.next s) f = f s := rfl

/-- A sequence answers a next state exactly where both parts do. -/
theorem andThen_eq_next {r : Result} {f : State → Result} {t : State} :
    andThen r f = .next t ↔ ∃ s, r = .next s ∧ f s = .next t := by
  cases r <;> simp [andThen]

@[simp] theorem Chip.observeAll_nil (b : Bool) (chip : Chip) : chip.observeAll b [] = chip := rfl

@[simp] theorem Chip.observeAll_append (b : Bool) (chip : Chip) (es fs : List Event) :
    chip.observeAll b (es ++ fs) = (chip.observeAll b es).observeAll b fs := by
  simp [Chip.observeAll]

@[simp] theorem State.emit_nil (s : State) : s.emit [] = s := by
  simp [State.emit]

/-- Emitting two lists is emitting their concatenation (R70). -/
theorem State.emit_emit (s : State) (es fs : List Event) : (s.emit es).emit fs = s.emit (es ++ fs) := by
  simp [State.emit]

/-- Two merges are the last one (R157.5). -/
theorem csrMerge_csrMerge (old : Byte) (m n : BitVec 4) : csrMerge (csrMerge old m) n = csrMerge old n := by
  apply BitVec.eq_of_toNat_eq
  rw [csrMerge_toNat, csrMerge_toNat, csrMerge_toNat]
  omega

/-! ## Fetching -/

/-- A decoded command leaves no final state: its words stand at cp. -/
theorem State.fetch_ok_not_final {s : State} {i : Instr} (h : s.fetch = .ok i) : s.final = false := by
  have := (decode_ok_wf h).2
  simp only [List.length_drop] at this
  simp only [State.final, decide_eq_false_iff_not]
  omega

/-- A block whose cp is not the stream's length is not final. -/
theorem State.not_final {s : State} (h : s.cp ≠ s.stream.length) : s.final = false := by
  simp only [State.final, decide_eq_false_iff_not]
  omega

/-- A header word at cp begins the rest of the stream. -/
theorem State.drop_of_cmdWord {s : State} {h : Word} (e : s.cmdWord s.cp = some h) :
    ∃ ws, s.stream.drop s.cp = h :: ws := by
  obtain ⟨hl, he⟩ := List.getElem?_eq_some_iff.1 e
  exact ⟨_, by rw [List.drop_eq_getElem_cons hl, he]⟩

/-- The step of a block that is ready to decode and finds a command. -/
theorem step_of_fetch {s : State} {i : Instr} (hf : s.fault = none) (hs : s.sweep = .idle) (h : s.fetch = .ok i) :
    step s = exec i s := by
  simp [step, hf, hs, h, State.fetch_ok_not_final h]

/-- The step of a block that is ready to decode and finds no command. -/
theorem step_of_fetch_error {s : State} {k : FaultKind} (hf : s.fault = none) (hs : s.sweep = .idle)
    (hn : s.final = false) (h : s.fetch = .error k) : step s = .next (s.raise k) := by
  simp [step, hf, hs, hn, h, raiseFault]

/-- Everything a step that answers a next state can be: a step of a sweep under way, a fault of decode, a command. -/
theorem step_next {s t : State} (h : step s = .next t) :
    s.fault = none ∧
    ((∃ ctx, s.sweep = .configured ctx ∧ t = startSweep ctx s) ∨
     (∃ ctx, s.sweep = .running ctx ∧ t = finishSweep ctx s) ∨
     (∃ k, s.sweep = .idle ∧ s.fetch = .error k ∧ t = s.raise k) ∨
     (∃ i, s.sweep = .idle ∧ s.fetch = .ok i ∧ exec i s = .next t)) := by
  unfold step at h
  split at h
  · exact nomatch h
  · next hf =>
    refine ⟨hf, ?_⟩
    split at h
    · next ctx hc => cases h; exact .inl ⟨ctx, hc, rfl⟩
    · next ctx hc => cases h; exact .inr (.inl ⟨ctx, hc, rfl⟩)
    · next hi =>
      split at h
      · exact nomatch h
      · split at h
        · next k hk => cases h; exact .inr (.inr (.inl ⟨k, hi, hk, rfl⟩))
        · next i hk => exact .inr (.inr (.inr ⟨i, hi, hk, h⟩))

/-! ## Sweeps -/

/-- What the freq row's words are, where every conversion has a value (R220). -/
theorem freqSweepWords_eq_some {k : Kind} {p : SweepOps} {clk : Nat} (h : k = .raw ∨ clk ≠ 0) :
    freqSweepWords k p clk =
      let conv (w : Word) : Nat := if k = .domain then w.toNat * 2 ^ 32 / clk % 2 ^ 32 else w.toNat
      some { startFrame := .frame addrFtw (ftwBytes (conv p.start)), stopBytes := ftwBytes (conv p.stop)
             riseBytes := ftwBytes (conv p.rdelta), fallBytes := ftwBytes (conv p.fdelta) } := by
  simp only [freqSweepWords, ftwOf_eq_some h]

/-- The freq row has no words exactly in the ClockZero case (R223). -/
theorem freqSweepWords_eq_none {k : Kind} {p : SweepOps} {clk : Nat} :
    freqSweepWords k p clk = none ↔ k = .domain ∧ clk = 0 := by
  by_cases h : k = .domain ∧ clk = 0
  · obtain ⟨rfl, rfl⟩ := h
    simp [freqSweepWords, ftwOf, ftwHz]
  · have h' : k = .raw ∨ clk ≠ 0 := by cases k <;> simp_all
    simp [freqSweepWords_eq_some h', h]

/-- Whether the words of a sweep fit the registers they go to (R62, R220). -/
structure SweepWords.Fits (w : SweepWords) : Prop where
  start : w.startFrame.legal = true
  stop : w.stopBytes.length = 4
  rise : w.riseBytes.length = 4
  fall : w.fallBytes.length = 4
  frame : ∃ a b, w.startFrame = .frame a b

theorem freqSweepWords_fits {k : Kind} {p : SweepOps} {clk : Nat} {w : SweepWords} (h : freqSweepWords k p clk = some w) :
    w.Fits := by
  have hn : k = .raw ∨ clk ≠ 0 := by
    by_contra hc
    rw [freqSweepWords_eq_none.2 (by cases k <;> simp_all)] at h
    exact nomatch h
  rw [freqSweepWords_eq_some hn] at h
  cases h
  exact ⟨rfl, rfl, rfl, rfl, _, _, rfl⟩

theorem phaseSweepWords_fits (k : Kind) (p : SweepOps) : (phaseSweepWords k p).Fits :=
  ⟨rfl, rfl, rfl, rfl, _, _, rfl⟩

theorem ampSweepWords_fits (fs : Nat) (k : Kind) (p : SweepOps) : (ampSweepWords fs k p).Fits :=
  ⟨rfl, rfl, rfl, rfl, _, _, rfl⟩

/-- R223 as one record: what a configured sweep has changed. -/
theorem configureSweep_eq (kind : SweepKind) (ch : Chan) (p : SweepOps) (w : SweepWords) (s : State) :
    configureSweep kind ch p w s =
      let es := .frame addrCsr [csrMerge s.csr (chanMask ch)] :: sweepFrames s.cfg kind p w
      { s with
        csr := csrMerge s.csr (chanMask ch)
        trace := s.trace ++ es
        chip := s.chip.observeAll s.cfg.csrBuffered es
        sweep := .configured { ch := ch, hold := p.hold, kind := kind } } := by
  simp [configureSweep, State.setSweep, State.emit, State.selectMask, Chip.observeAll]

/-- R224 as one record. -/
theorem startSweep_eq (ctx : SweepCtx) (s : State) :
    startSweep ctx s =
      { s with
        trace := s.trace ++ [.update, .gate ctx.ch .high]
        chip := s.chip.observeAll s.cfg.csrBuffered [.update, .gate ctx.ch .high]
        gate := s.gate.set ctx.ch.val .high
        sweep := .running ctx } := by
  simp [startSweep, State.setSweep, State.driveGate, State.emit, Chip.observeAll]

/-- GATE and DELAY leave the observer (R78), so a sweep's last events do. -/
theorem Chip.observeAll_delay_gate (b : Bool) (chip : Chip) (ms : Nat) (c : Chan) (l : Level) :
    chip.observeAll b [.delay ms, .gate c l] = chip := rfl

/-- R225 as one record. -/
theorem finishSweep_eq (ctx : SweepCtx) (s : State) :
    finishSweep ctx s =
      { s with
        trace := s.trace ++ [.delay ctx.hold.toNat, .gate ctx.ch .low]
        chip := if ctx.hold = 0#32 then s.chip.zeroDwell ctx.kind ctx.ch else s.chip
        gate := s.gate.set ctx.ch.val .low
        sweep := .idle
        status := .ok
        cp := s.cp + 7 } := by
  simp [finishSweep, State.setSweep, State.driveGate, State.endDwell, State.emit, State.complete, Chip.observeAll,
    Chip.observe]

/-- What a zero hold leaves of the observer: one active register at some value, and the count of draws. -/
theorem Chip.zeroDwell_eq (chip : Chip) (k : SweepKind) (c : Chan) :
    ∃ v, chip.zeroDwell k c = { chip.setSwept k c v with nextDraw := chip.nextDraw + 1 } := ⟨_, rfl⟩

/-! ## Stepper -/

/-- The events of one program action of channel c (R265): the merged csr's frame, the FTW, UPDATE. -/
def programEvents (csr : Byte) (c : Chan) (x : Nat) : List Event :=
  [.frame addrCsr [csrMerge csr (chanMask c)], .frame addrFtw (ftwBytes x), .update]

/-- Everything a program action can do (R265). -/
theorem programAction_eq_some {c : Chan} {i : Nat} {s t : State} :
    programAction c i s = some t ↔
      ∃ e x, s.tableRead c i = some e ∧ ftwOf (s.stepper c).tkind e.toNat s.clk.toNat = some x ∧
        t = { s with
          csr := csrMerge s.csr (chanMask c)
          lastFreq := some ((s.stepper c).tkind, e)
          trace := s.trace ++ programEvents s.csr c x
          chip := s.chip.observeAll s.cfg.csrBuffered (programEvents s.csr c x) } := by
  unfold programAction
  cases he : s.tableRead c i with
  | none => simp
  | some e =>
    cases hx : ftwOf (s.stepper c).tkind e.toNat s.clk.toNat with
    | none =>
      simp only [hx, reduceCtorEq, Option.some.injEq, false_iff]
      rintro ⟨e', x, rfl, hx', -⟩
      rw [hx] at hx'
      exact nomatch hx'
    | some x =>
      have key : ((s.selectMask (chanMask c)).emit [.frame addrFtw (ftwBytes x), .update]).setLastFreq (s.stepper c).tkind e
          = { s with
              csr := csrMerge s.csr (chanMask c)
              lastFreq := some ((s.stepper c).tkind, e)
              trace := s.trace ++ programEvents s.csr c x
              chip := s.chip.observeAll s.cfg.csrBuffered (programEvents s.csr c x) } := by
        simp [State.setLastFreq, State.selectMask, State.emit, programEvents, Chip.observeAll]
      simp only [hx, key, Option.some.injEq]
      constructor
      · rintro rfl; exact ⟨e, x, rfl, hx, rfl⟩
      · rintro ⟨e', x', rfl, hx', rfl⟩
        rw [hx] at hx'
        cases hx'
        rfl

/-- A program action of a loaded entry whose conversion has a value is taken. -/
theorem programAction_isSome {c : Chan} {i : Nat} {s : State} (hr : (s.tableRead c i).isSome = true)
    (hc : (s.stepper c).tkind = .raw ∨ s.clk.toNat ≠ 0) : ∃ t, programAction c i s = some t := by
  obtain ⟨e, he⟩ := Option.isSome_iff_exists.1 hr
  exact ⟨_, programAction_eq_some.2 ⟨e, _, he, ftwOf_eq_some hc, rfl⟩⟩

@[simp] theorem State.setStepLatch_eq (s : State) (c : Chan) (l : Latch) :
    s.setStepLatch c l = s.setStepper c { s.stepper c with stepLatch := l } := rfl

@[simp] theorem State.setResetLatch_eq (s : State) (c : Chan) (l : Latch) :
    s.setResetLatch c l = s.setStepper c { s.stepper c with resetLatch := l } := rfl

@[simp] theorem State.setCursor_eq (s : State) (c : Chan) (i : Int) :
    s.setCursor c i = s.setStepper c { s.stepper c with cursor := i } := rfl

/-- Replacing a channel's stepper state by itself changes nothing. -/
@[simp] theorem State.setStepper_stepper (s : State) (c : Chan) : s.setStepper c (s.stepper c) = s := by
  simp [State.setStepper, State.stepper]

/-- Two replacements of one channel are the last one. -/
@[simp] theorem State.setStepper_setStepper (s : State) (c : Chan) (t u : Stepper) :
    (s.setStepper c t).setStepper c u = s.setStepper c u := by
  simp [State.setStepper]

end Sys2Proof.Machine
end

