-- ==== Sys2Proof/Laws/PerInstr.lean ====
section
/-! SUPPORT. The family EncodesToRow, one lemma per constructor of Instr: a command's header matches the row of R107 it
belongs to, and the command is its header and its operand words (R106). -/

namespace Sys2Proof.Laws.EncodesToRow

/-- The row of R107 a command belongs to. -/
def row : Instr → Op
  | .setclk _ => .setclk
  | .init _ _ => .init
  | .select _ => .select
  | .setf _ _ _ => .setf
  | .setp _ _ => .setp
  | .seta _ _ _ => .seta
  | .commit => .commit
  | .swpf _ _ _ _ => .swpf
  | .swpp _ _ _ => .swpp
  | .swpa _ _ _ _ => .swpa
  | .tload _ _ _ => .tload
  | .poll _ _ _ => .poll

/-- The header of `i` matches its row, and `i` has one word more than its operand count. -/
def Statement (i : Instr) : Prop :=
  encodeHeader i &&& (row i).mask = (row i).pattern ∧ (encode i).length = 1 + i.operandCount

/-- The header of a command matches the row of its own opcode. -/
theorem matches_of_code {i : Instr} (h : hdrOp (encodeHeader i) = (row i).code) : Statement i := by
  refine ⟨?_, encode_length i⟩
  obtain ⟨o, ch, v, k, imm, he, hm⟩ := encodeHeader_matches i
  rw [he, hdrOp_header] at h
  have ho : o = row i := by
    have := congrArg opOfCode h
    rw [opOfCode_code, opOfCode_code] at this
    exact Option.some.inj this
  rw [he, ← ho, hm]

theorem setclk (hz : Word) : Statement (.setclk hz) := matches_of_code (hdrOp_header ..)
theorem init (v : Bool) (ratio : Byte) : Statement (.init v ratio) := matches_of_code (hdrOp_header ..)
theorem select (mask : BitVec 4) : Statement (.select mask) := matches_of_code (hdrOp_header ..)
theorem setf (v : Bool) (k : Kind) (value : Word) : Statement (.setf v k value) := matches_of_code (hdrOp_header ..)
theorem setp (k : Kind) (value : Word) : Statement (.setp k value) := matches_of_code (hdrOp_header ..)
theorem seta (v : Bool) (k : Kind) (value : Word) : Statement (.seta v k value) := matches_of_code (hdrOp_header ..)
theorem commit : Statement .commit := matches_of_code (hdrOp_header ..)
theorem swpf (ch : Chan) (v : Bool) (k : Kind) (ops : SweepOps) : Statement (.swpf ch v k ops) :=
  matches_of_code (hdrOp_header ..)
theorem swpp (ch : Chan) (k : Kind) (ops : SweepOps) : Statement (.swpp ch k ops) := matches_of_code (hdrOp_header ..)
theorem swpa (ch : Chan) (v : Bool) (k : Kind) (ops : SweepOps) : Statement (.swpa ch v k ops) :=
  matches_of_code (hdrOp_header ..)
theorem tload (ch : Chan) (k : Kind) (entries : List Word) : Statement (.tload ch k entries) :=
  matches_of_code (hdrOp_header ..)
theorem poll (ch : Chan) (step rst : Level) : Statement (.poll ch step rst) := matches_of_code (hdrOp_header ..)

end Sys2Proof.Laws.EncodesToRow
end

