-- ==== Sys2Proof/Laws/Stepper.lean ====
section
/-! SUPPORT. Everything POLL can do: each automaton is quiet or takes one program action (R263, R264), and the whole command
faults, stops on an unwritten entry, or completes with at most two actions (R262). -/

namespace Sys2Proof.Machine

/-- The latch an automaton leaves after a sample: Fired after HIGH, Armed after LOW, fired or not (R263, R264, D29). -/
def latchAfter (l : Level) : Latch := if l = .high then .fired else .armed

/-- A step sample that fires nothing sets the latch alone. -/
theorem stepAutomaton_quiet {c : Chan} {l : Level} {s : State} (h : stepFires (s.stepper c) l = false) :
    stepAutomaton c l s = some (s.setStepper c { s.stepper c with stepLatch := latchAfter l }) := by
  cases l with
  | low => simp [stepAutomaton, latchAfter]
  | high =>
    cases hl : (s.stepper c).stepLatch with
    | armed =>
      have hc : ¬(s.stepper c).cursor < ((s.stepper c).tlen : Int) - 1 := by simpa [stepFires, hl] using h
      simp [stepAutomaton, hl, latchAfter, hc]
    | fired =>
      have : { s.stepper c with stepLatch := latchAfter .high } = s.stepper c := by
        simp [latchAfter, ← hl]
      simp [stepAutomaton, hl, this]

/-- A step sample that fires advances the cursor, programs the entry there, and sets the latch. -/
theorem stepAutomaton_fires {c : Chan} {l : Level} {s : State} (h : stepFires (s.stepper c) l = true) :
    stepAutomaton c l s =
      (programAction c ((s.stepper c).cursor + 1).toNat
        (s.setStepper c { s.stepper c with cursor := (s.stepper c).cursor + 1 })).map
        fun t => t.setStepper c { t.stepper c with stepLatch := latchAfter l } := by
  simp only [stepFires, decide_eq_true_eq] at h
  obtain ⟨rfl, hl, hc⟩ := h
  simp [stepAutomaton, hl, latchAfter, hc]

/-- A reset sample that fires nothing sets the latch alone. -/
theorem resetAutomaton_quiet {c : Chan} {l : Level} {s : State} (h : resetFires (s.stepper c) l = false) :
    resetAutomaton c l s = some (s.setStepper c { s.stepper c with resetLatch := latchAfter l }) := by
  cases l with
  | low => simp [resetAutomaton, latchAfter]
  | high =>
    cases hl : (s.stepper c).resetLatch with
    | armed => simp [resetFires, hl] at h
    | fired =>
      have : { s.stepper c with resetLatch := latchAfter .high } = s.stepper c := by
        simp [latchAfter, ← hl]
      simp [resetAutomaton, hl, this]

/-- A reset sample that fires sets the cursor to 0, programs entry 0, and sets the latch. -/
theorem resetAutomaton_fires {c : Chan} {l : Level} {s : State} (h : resetFires (s.stepper c) l = true) :
    resetAutomaton c l s =
      (programAction c 0 (s.setStepper c { s.stepper c with cursor := 0 })).map
        fun t => t.setStepper c { t.stepper c with resetLatch := latchAfter l } := by
  simp only [resetFires, decide_eq_true_eq] at h
  obtain ⟨rfl, hl⟩ := h
  simp [resetAutomaton, hl, latchAfter]

/-- What one automaton may change, of channel c: the stepper state to `u`, and with at most one action the csr, lastFreq and
the events. -/
def AutomatonEffect (c : Chan) (u : Stepper) (s t : State) : Prop :=
  t = s.setStepper c u ∨
  ∃ (i : Nat) (e : Word) (x : Nat), s.tableRead c i = some e ∧ ftwOf (s.stepper c).tkind e.toNat s.clk.toNat = some x ∧
    t = { s with
      csr := csrMerge s.csr (chanMask c)
      lastFreq := some ((s.stepper c).tkind, e)
      steppers := s.steppers.set c.val u
      trace := s.trace ++ programEvents s.csr c x
      chip := s.chip.observeAll s.cfg.csrBuffered (programEvents s.csr c x) }

/-- Everything a step sample can do. -/
theorem stepAutomaton_effect {c : Chan} {l : Level} {s t : State} (h : stepAutomaton c l s = some t) :
    AutomatonEffect c
      { s.stepper c with
        cursor := if stepFires (s.stepper c) l then (s.stepper c).cursor + 1 else (s.stepper c).cursor
        stepLatch := latchAfter l } s t := by
  cases hf : stepFires (s.stepper c) l with
  | false =>
    rw [stepAutomaton_quiet hf] at h
    cases h
    exact .inl (by simp)
  | true =>
    rw [stepAutomaton_fires hf, Option.map_eq_some_iff] at h
    obtain ⟨t', hp, rfl⟩ := h
    obtain ⟨e, x, he, hx, rfl⟩ := programAction_eq_some.1 hp
    refine .inr ⟨_, e, x, he, by simpa using hx, ?_⟩
    simp [State.setStepper, State.stepper]

/-- Everything a reset sample can do. -/
theorem resetAutomaton_effect {c : Chan} {l : Level} {s t : State} (h : resetAutomaton c l s = some t) :
    AutomatonEffect c
      { s.stepper c with
        cursor := if resetFires (s.stepper c) l then 0 else (s.stepper c).cursor
        resetLatch := latchAfter l } s t := by
  cases hf : resetFires (s.stepper c) l with
  | false =>
    rw [resetAutomaton_quiet hf] at h
    cases h
    exact .inl (by simp)
  | true =>
    rw [resetAutomaton_fires hf, Option.map_eq_some_iff] at h
    obtain ⟨t', hp, rfl⟩ := h
    obtain ⟨e, x, he, hx, rfl⟩ := programAction_eq_some.1 hp
    refine .inr ⟨_, e, x, he, by simpa using hx, ?_⟩
    simp [State.setStepper, State.stepper]

/-- Everything POLL can do where it answers a next state (R262). -/
theorem execPoll_next {c : Chan} {a b : Level} {s t : State} (h : execPoll c a b s = .next t) :
    ((s.stepper c).tlen = 0 ∧ t = s.raise .stepperUnconfigured) ∨
    (0 < (s.stepper c).tlen ∧ (s.stepper c).tkind = .domain ∧ s.clk = 0#64 ∧ t = s.raise .clockZero) ∨
    (0 < (s.stepper c).tlen ∧ ∃ s1 s2, stepAutomaton c a s = some s1 ∧ resetAutomaton c b s1 = some s2 ∧
      t = s2.complete 0) := by
  unfold execPoll at h
  simp only at h
  split at h
  · next h0 => cases h; exact .inl ⟨h0, rfl⟩
  · next h0 =>
    split at h
    · next h1 =>
      cases h
      simp only [Bool.and_eq_true, decide_eq_true_eq] at h1
      exact .inr (.inl ⟨Nat.pos_of_ne_zero h0, h1.2.1, h1.2.2, rfl⟩)
    · split at h
      · exact nomatch h
      · next s2 hb =>
        cases h
        obtain ⟨s1, h1, h2⟩ := Option.bind_eq_some_iff.1 hb
        exact .inr (.inr ⟨Nat.pos_of_ne_zero h0, s1, s2, h1, h2, rfl⟩)

/-- POLL where no fault of R262 applies is its two automata in order. -/
theorem execPoll_run {c : Chan} {a b : Level} {s s1 s2 : State} (h0 : 0 < (s.stepper c).tlen)
    (hc : (stepFires (s.stepper c) a || resetFires (s.stepper c) b) = true →
      ¬((s.stepper c).tkind = .domain ∧ s.clk = 0#64))
    (h1 : stepAutomaton c a s = some s1) (h2 : resetAutomaton c b s1 = some s2) :
    execPoll c a b s = .next (s2.complete 0) := by
  have hn : ¬(s.stepper c).tlen = 0 := by omega
  have hb : ((stepFires (s.stepper c) a || resetFires (s.stepper c) b) &&
      decide ((s.stepper c).tkind = .domain ∧ s.clk = 0#64)) = false := by
    cases hf : (stepFires (s.stepper c) a || resetFires (s.stepper c) b) with
    | false => rfl
    | true => simpa using hc hf
  simp only [execPoll, hn, if_false, hb, Bool.false_eq_true, h1, h2, Option.bind_some]

/-- A step sample whose firing `f` and whose entry are known, as one record (R263, R265). -/
theorem stepAutomaton_eq {c : Chan} {l : Level} {s : State} {f : Bool} {e : Word} {x : Nat}
    (hf : stepFires (s.stepper c) l = f)
    (he : f = true → s.tableRead c ((s.stepper c).cursor + 1).toNat = some e)
    (hx : f = true → ftwOf (s.stepper c).tkind e.toNat s.clk.toNat = some x) :
    stepAutomaton c l s = some { s with
      csr := if f then csrMerge s.csr (chanMask c) else s.csr
      lastFreq := if f then some ((s.stepper c).tkind, e) else s.lastFreq
      steppers := s.steppers.set c.val
        { s.stepper c with
          cursor := if f then (s.stepper c).cursor + 1 else (s.stepper c).cursor
          stepLatch := latchAfter l }
      trace := s.trace ++ (if f then programEvents s.csr c x else [])
      chip := s.chip.observeAll s.cfg.csrBuffered (if f then programEvents s.csr c x else []) } := by
  cases f with
  | false => rw [stepAutomaton_quiet hf]; simp [State.setStepper]
  | true =>
    have hp := programAction_eq_some
      (s := s.setStepper c { s.stepper c with cursor := (s.stepper c).cursor + 1 })
      |>.2 ⟨e, x, he rfl, by simpa using hx rfl, rfl⟩
    rw [stepAutomaton_fires hf, hp]
    simp [State.setStepper, State.stepper]

/-- A reset sample whose firing `f` and whose entry are known, as one record (R264, R265). -/
theorem resetAutomaton_eq {c : Chan} {l : Level} {s : State} {f : Bool} {e : Word} {x : Nat}
    (hf : resetFires (s.stepper c) l = f) (he : f = true → s.tableRead c 0 = some e)
    (hx : f = true → ftwOf (s.stepper c).tkind e.toNat s.clk.toNat = some x) :
    resetAutomaton c l s = some { s with
      csr := if f then csrMerge s.csr (chanMask c) else s.csr
      lastFreq := if f then some ((s.stepper c).tkind, e) else s.lastFreq
      steppers := s.steppers.set c.val
        { s.stepper c with
          cursor := if f then 0 else (s.stepper c).cursor
          resetLatch := latchAfter l }
      trace := s.trace ++ (if f then programEvents s.csr c x else [])
      chip := s.chip.observeAll s.cfg.csrBuffered (if f then programEvents s.csr c x else []) } := by
  cases f with
  | false => rw [resetAutomaton_quiet hf]; simp [State.setStepper]
  | true =>
    have hp := programAction_eq_some (s := s.setStepper c { s.stepper c with cursor := 0 })
      |>.2 ⟨e, x, he rfl, by simpa using hx rfl, rfl⟩
    rw [resetAutomaton_fires hf, hp]
    simp [State.setStepper, State.stepper]

/-- One step edge (EDGE, R126) on a channel with a table, the reset line LOW, as one record: `f` says whether the cursor is below
the last entry, `e` is the entry it then moves to (R263). -/
theorem stepEdge_eq {c : Chan} {s : State} {t : Stepper} {f : Bool} {e : Word} {x : Nat} (ht : s.stepper c = t)
    (h0 : 0 < t.tlen) (hf : f = decide (t.cursor < (t.tlen : Int) - 1))
    (he : f = true → s.tableRead c (t.cursor + 1).toNat = some e)
    (hx : f = true → ftwOf t.tkind e.toNat s.clk.toNat = some x) :
    andThen (execPoll c .low .low s) (execPoll c .high .low) = .next { s with
      csr := if f then csrMerge s.csr (chanMask c) else s.csr
      lastFreq := if f then some (t.tkind, e) else s.lastFreq
      steppers := s.steppers.set c.val
        { t with cursor := if f then t.cursor + 1 else t.cursor, stepLatch := .fired, resetLatch := .armed }
      trace := s.trace ++ (if f then programEvents s.csr c x else [])
      chip := s.chip.observeAll s.cfg.csrBuffered (if f then programEvents s.csr c x else [])
      status := .ok
      cp := s.cp + 2 } := by
  subst ht
  have hq : ∀ u : Stepper, stepFires u .low = false ∧ resetFires u .low = false := fun u => by simp [stepFires, resetFires]
  have e1 := execPoll_run (a := .low) (b := .low) h0 (by simp [hq]) (stepAutomaton_quiet (hq _).1)
    (resetAutomaton_quiet (hq _).2)
  rw [e1, andThen_next_left]
  set s1 := State.complete _ 0 with hs1
  have hs1' : s1.stepper c = { s.stepper c with stepLatch := .armed, resetLatch := .armed } := by
    rw [hs1]; simp [State.setStepper, State.stepper, State.complete, latchAfter]
  have hf1 : stepFires (s1.stepper c) .high = f := by rw [hs1', hf]; simp [stepFires]
  have hclk : s1.clk = s.clk := rfl
  have htr : ∀ i, s1.tableRead c i = s.tableRead c i := fun _ => rfl
  have e2 := stepAutomaton_eq (e := e) (x := x) hf1 (by rw [hs1', htr]; exact he) (by rw [hs1', hclk]; exact hx)
  have e3 := execPoll_run (c := c) (a := .high) (b := .low) (s := s1) (by rw [hs1']; exact h0)
    (by
      rw [hf1, (hq _).2, Bool.or_false, hs1']
      rintro h ⟨a, b⟩
      have := hx h
      rw [ftwOf_eq_none.2 ⟨a, by rw [show s.clk = s1.clk from rfl, b]; rfl⟩] at this
      exact nomatch this) e2 (resetAutomaton_quiet (hq _).2)
  rw [e3, hs1]
  simp [State.setStepper, State.stepper, State.complete, latchAfter]

end Sys2Proof.Machine
end

