-- ==== Sys2Proof/Tests/Slice0.lean ====
section
/-! SUPPORT. Tests with the spec's own examples and vectors (R112 and 95_test_vectors.md), the smoke test of WellFormed, and
for every obligation with hypotheses a witness that meets them, at a boundary value for each clause. -/

namespace Sys2Proof.Tests

open Sys2Proof.Machine

/-! ## States and views -/

/-- A block after reset with a stream. -/
def ready (ws : List Word) : State := { State.reset with stream := ws }

/-- The same with clk = 500 MHz ("clk = 500 MHz" of 95_test_vectors.md, without the prefix's two words). -/
def clocked (ws : List Word) : State := { ready ws with baseClk := 500000000#32, clk := 500000000#64 }

/-- A stepper channel with a table of n entries. -/
def stepperWith (n : Nat) (k : Kind) (cursor : Int) (a b : Latch) : Stepper :=
  { tlen := n, tkind := k, cursor := cursor, stepLatch := a, resetLatch := b }

/-- `TLOAD 0, [100, 200, 300]` done, the cursor and latches as given. -/
def loaded (cursor : Int) (a b : Latch) : State :=
  { clocked [] with
    mem := [(0, 100#32), (1, 200#32), (2, 300#32)]
    steppers := State.reset.steppers.set 0 (stepperWith 3 .domain cursor a b) }

/-- A sweep's operands. -/
def ops (a b c d w4hi w4lo h : Nat) : SweepOps :=
  { start := BitVec.ofNat 32 a, stop := BitVec.ofNat 32 b, rdelta := BitVec.ofNat 32 c, fdelta := BitVec.ofNat 32 d
    rrate := BitVec.ofNat 8 w4lo, frate := BitVec.ofNat 8 w4hi, hold := BitVec.ofNat 32 h }

/-- The context of the phase sweep SWPP.W of channel 3 with hold 10. -/
def ctx3 : SweepCtx := { ch := 3, hold := 10#32, kind := .phase }

/-- One view of the state a result answers. -/
def after {α : Type} (r : Result) (f : State → α) : Option α :=
  match r with
  | .next s => some (f s)
  | .fault _ => none
  | .refused _ => none

/-! ## WellFormed: the ill-formed terms -/

theorem test_wf_tload_empty : (Instr.tload 0 .raw []).wf = false := by decide
theorem test_wf_tload_too_long : (Instr.tload 0 .raw (List.replicate 101 0#32)).wf = false := by decide
theorem test_wf_tload_one : (Instr.tload 3 .domain [7#32]).wf = true := by decide
theorem test_wf_tload_hundred : (Instr.tload 3 .domain (List.replicate 100 7#32)).wf = true := by decide

/-! ## Decode: R112 and 95_test_vectors.md, one word and more for each row -/

theorem test_decode_setclk : decode [0x00000001#32, 0x017D7840#32] = .ok (.setclk 25000000#32) := by decide
theorem test_decode_init : decode [0x00140002#32] = .ok (.init false 20#8) := by decide
theorem test_decode_init_v : decode [0x00190402#32] = .ok (.init true 25#8) := by decide
theorem test_decode_select : decode [0x00010003#32] = .ok (.select 1#4) := by decide
theorem test_decode_setf : decode [0x00000804#32, 0x05F5E100#32] = .ok (.setf false .domain 100000000#32) := by decide
theorem test_decode_setf_w : decode [0x00000004#32, 0x33333333#32] = .ok (.setf false .raw 0x33333333#32) := by decide
theorem test_decode_setp : decode [0x00000805#32, 0x005A0000#32] = .ok (.setp .domain 0x005A0000#32) := by decide
theorem test_decode_seta_w : decode [0x00000006#32, 0x00000200#32] = .ok (.seta false .raw 512#32) := by decide
theorem test_decode_seta_v : decode [0x00000C06#32, 0x00010021#32] = .ok (.seta true .domain 0x10021#32) := by decide
theorem test_decode_commit : decode [0x00000007#32] = .ok .commit := by decide
theorem test_decode_swpf_w : decode [0x00000108#32, 0x11223344#32, 0x55667788#32, 1#32, 2#32, 0x00000A05#32, 7#32] =
    .ok (.swpf 1 false .raw (ops 0x11223344 0x55667788 1 2 10 5 7)) := by decide
theorem test_decode_swpp_w : decode [0x00000009#32, 0x2000#32, 0x3FFF#32, 1#32, 0xFFFFFFFF#32, 0x0000FFFF#32, 0#32] =
    .ok (.swpp 0 .raw (ops 0x2000 0x3FFF 1 0xFFFFFFFF 0xFF 0xFF 0)) := by decide
theorem test_decode_swpa : decode [0x00000B0A#32, 0x8000#32, 0x10000#32, 0x100#32, 0x80#32, 0x00000403#32, 0x14#32] =
    .ok (.swpa 3 false .domain (ops 0x8000 0x10000 0x100 0x80 4 3 20)) := by decide
theorem test_decode_swpa_vw : decode [0x0000070A#32, 0#32, 0x18000#32, 0x10000#32, 0x10000#32, 0x00000101#32, 5#32] =
    .ok (.swpa 3 true .raw (ops 0 0x18000 0x10000 0x10000 1 1 5)) := by decide
theorem test_decode_tload : decode [0x0003080B#32, 0x64#32, 0xC8#32, 0x12C#32] =
    .ok (.tload 0 .domain [100#32, 200#32, 300#32]) := by decide
theorem test_decode_tload_ch2 : decode [0x00020A0B#32, 0x3E8#32, 0x7D0#32] = .ok (.tload 2 .domain [1000#32, 2000#32]) := by
  decide
theorem test_decode_poll_step : decode [0x0001000C#32] = .ok (.poll 0 .high .low) := by decide
theorem test_decode_poll_rst : decode [0x0002000C#32] = .ok (.poll 0 .low .high) := by decide

theorem test_decode_reserved_opcodes : ([0x00000000#32, 0x0000000D#32, 0x000000FF#32].all fun h =>
    decide (decode [h] = .error .reservedOpcode)) = true := by decide
theorem test_decode_reserved_fields : ([0x00000101#32, 0x00100003#32, 0x00140102#32, 0x00000405#32, 0x0004000C#32,
    0x00001004#32, 0x01000007#32, 0x0000100B#32, 0x0080000B#32].all fun h =>
    decide (decode [h] = .error .reservedField)) = true := by decide
theorem test_decode_table_length : ([0x0000000B#32, 0x0065000B#32, 0x007F000B#32].all fun h =>
    decide (decode [h] = .error .tableLength)) = true := by decide
theorem test_decode_truncated : decode [0x0003080B#32, 0x64#32, 0xC8#32] = .error .truncatedCommand := by decide
theorem test_decode_sweep_reserved : decode [0x00000808#32, 1#32, 2#32, 3#32, 4#32, 0x00010000#32, 6#32] =
    .error .reservedField := by decide
theorem test_decode_bytes : decodeBytes [0x00#8, 0x01#8, 0x00#8, 0x03#8] = .ok (.select 1#4) := by decide
theorem test_decodeTableWord_init : decodeTableWord 32 0x00190402 = some (.init true 25#8) := by decide
theorem test_decodeTableWord_swpp : decodeTableWord 32 0x00000209 = some (.swpp 2 .raw (ops 0 0 0 0 0 0 0)) := by decide

/-! ## The meanings: 95_test_vectors.md, L2.5 to L2.7 -/

theorem test_setclk : after (exec (.setclk 25000000#32) (ready [])) (fun s => (s.baseClk, s.clk, s.cp, s.trace)) =
    some (25000000#32, 25000000#64, 2, []) := by decide

theorem test_init_clamps : after (exec (.init false 25#8) { ready [] with clk := 25000000#64 }) (fun s => (s.clk, s.trace)) =
    some (500000000#64, [.reset 10, .frame 0x01#8 [0x50#8, 0x00#8, 0x00#8], .update]) := by decide
theorem test_init_v_reports : after (exec (.init true 25#8) { ready [] with clk := 25000000#64 })
    (fun s => (s.clk, s.status, s.cp, s.trace)) = some (25000000#64, .invalidParameter, 1, []) := by decide

theorem test_select : after (exec (.select 0b0001#4) (ready [])) (fun s => (s.csr, s.trace)) =
    some (0x10#8, [.frame 0x00#8 [0x10#8]]) := by decide
theorem test_select_keeps_low_bits : after (exec (.select 0b1000#4) { ready [] with csr := 0x13#8 }) (·.csr) =
    some 0x83#8 := by decide

theorem test_setf : after (exec (.setf false .domain 100000000#32) (clocked [])) (fun s => (s.trace, s.lastFreq)) =
    some ([.frame 0x04#8 [0x33#8, 0x33#8, 0x33#8, 0x33#8], .update], some (.domain, 100000000#32)) := by decide
theorem test_setf_v_reports : after (exec (.setf true .domain 250000001#32) (clocked []))
    (fun s => (s.trace, s.lastFreq, s.status)) = some ([], none, .invalidParameter) := by decide

theorem test_setp : after (exec (.setp .domain 0x005A0000#32) (ready [])) (fun s => (s.trace, s.lastPhase)) =
    some ([.frame 0x05#8 [0x10#8, 0x00#8]], some (.domain, 0x005A0000#32)) := by decide
theorem test_setp_w : after (exec (.setp .raw 0xFFFFFFFF#32) (ready [])) (·.trace) =
    some [.frame 0x05#8 [0x3F#8, 0xFF#8]] := by decide

theorem test_seta : after (exec (.seta false .domain 0x8000#32) (ready [])) (·.trace) =
    some [.frame 0x06#8 [0x00#8, 0x12#8, 0x00#8], .update] := by decide
theorem test_seta_v_reports : after (exec (.seta true .domain 0x10021#32) (ready [])) (fun s => (s.trace, s.status)) =
    some ([], .invalidParameter) := by decide

theorem test_commit : after (exec .commit (ready [])) (fun s => (s.trace, s.cp)) = some ([.update], 1) := by decide

theorem test_swpf : after (exec (.swpf 0 false .domain (ops 1000000 2000000 1000 1000 1 1 100)) (clocked [])) (·.trace) =
    some [.frame 0x00#8 [0x10#8], .frame 0x03#8 [0x80#8, 0x43#8, 0x00#8], .frame 0x04#8 [0x00#8, 0x83#8, 0x12#8, 0x6E#8],
      .frame 0x0A#8 [0x01#8, 0x06#8, 0x24#8, 0xDD#8], .frame 0x08#8 [0x00#8, 0x00#8, 0x21#8, 0x8D#8],
      .frame 0x09#8 [0x00#8, 0x00#8, 0x21#8, 0x8D#8], .frame 0x07#8 [0x01#8, 0x01#8]] := by decide
theorem test_swpf_w_rates : after (exec (.swpf 1 false .raw (ops 0x11223344 0x55667788 1 2 10 5 7)) (ready []))
    (fun s => (s.trace.getLast?, s.sweep)) =
    some (some (.frame 0x07#8 [0x0A#8, 0x05#8]), .configured { ch := 1, hold := 7#32, kind := .freq }) := by decide
theorem test_swpp : after (exec (.swpp 2 .domain (ops 0 0x5A0000 0x10000 0x10000 4 4 50)) (ready [])) (·.trace) =
    some [.frame 0x00#8 [0x40#8], .frame 0x03#8 [0xC0#8, 0x43#8, 0x00#8], .frame 0x05#8 [0x00#8, 0x00#8],
      .frame 0x0A#8 [0x40#8, 0x00#8, 0x00#8, 0x00#8], .frame 0x08#8 [0x00#8, 0xB8#8, 0x00#8, 0x00#8],
      .frame 0x09#8 [0x00#8, 0xB8#8, 0x00#8, 0x00#8], .frame 0x07#8 [0x04#8, 0x04#8]] := by decide
theorem test_swpa : after (exec (.swpa 3 false .domain (ops 0x8000 0x10000 0x100 0x80 4 3 20)) (ready [])) (·.trace) =
    some [.frame 0x00#8 [0x80#8], .frame 0x03#8 [0x40#8, 0x43#8, 0x00#8], .frame 0x06#8 [0x00#8, 0x12#8, 0x00#8],
      .frame 0x0A#8 [0xFF#8, 0xC0#8, 0x00#8, 0x00#8], .frame 0x08#8 [0x01#8, 0x00#8, 0x00#8, 0x00#8],
      .frame 0x09#8 [0x00#8, 0x00#8, 0x00#8, 0x00#8], .frame 0x07#8 [0x04#8, 0x03#8]] := by decide
theorem test_swpa_v_reports : after (exec (.swpa 3 true .raw (ops 0 0x18000 0x10000 0x10000 1 1 5)) (ready []))
    (fun s => (s.trace, s.status, s.sweep, s.cp)) = some ([], .invalidParameter, .idle, 7) := by decide
theorem test_sweep_start : after (step { ready [] with sweep := .configured ctx3 })
    (fun s => (s.trace, s.gate, s.cp)) =
    some ([.update, .gate 3 .high], #v[.low, .low, .low, .high], 0) := by decide
theorem test_sweep_finish : after (step { ready [] with
    sweep := .running ctx3, gate := #v[.low, .low, .low, .high] })
    (fun s => (s.trace, s.gate, s.sweep, s.cp)) =
    some ([.delay 10, .gate 3 .low], #v[.low, .low, .low, .low], .idle, 7) := by decide

theorem test_tload : after (exec (.tload 0 .domain [100#32, 200#32, 300#32]) (clocked []))
    (fun s => (s.stepper 0, s.mem, s.trace, s.cp)) =
    some (stepperWith 3 .domain (-1) .armed .armed, [(0, 100#32), (1, 200#32), (2, 300#32)], [], 4) := by decide
theorem test_poll_step_and_reset : after (exec (.poll 0 .high .high) (loaded (-1) .armed .armed))
    (fun s => (s.stepper 0, s.trace)) =
    some (stepperWith 3 .domain 0 .fired .fired,
      [.frame 0x00#8 [0x10#8], .frame 0x04#8 [0x00#8, 0x00#8, 0x03#8, 0x5A#8], .update,
       .frame 0x00#8 [0x10#8], .frame 0x04#8 [0x00#8, 0x00#8, 0x03#8, 0x5A#8], .update]) := by decide
theorem test_poll_exhausted : after (exec (.poll 0 .high .low) (loaded 2 .armed .armed)) (fun s => (s.stepper 0, s.trace)) =
    some (stepperWith 3 .domain 2 .fired .armed, []) := by decide

theorem test_poll_unconfigured : after (step (clocked [0x0000000C#32])) (fun s => (s.fault, s.cp)) =
    some (some .stepperUnconfigured, 0) := by decide
theorem test_setf_clock_zero : after (step (ready [0x00000C04#32, 0#32])) (fun s => (s.fault, s.cp, s.trace)) =
    some (some .clockZero, 0, []) := by decide
theorem test_report_before_clock_zero : after (step (ready [0x00000C04#32, 5#32])) (fun s => (s.fault, s.status)) =
    some (none, .invalidParameter) := by decide

/-! ## Reset, fetching, the observer, the assembler -/

theorem test_reset : (State.reset.cp, State.reset.csr, State.reset.clk, State.reset.trace, State.reset.stepper 3) =
    (0, 0xF0#8, 0#64, [], stepperWith 0 .domain (-1) .armed .armed) := by decide
theorem test_reset_is_final : step State.reset = .fault .endOfStream := rfl
theorem test_withFetchWord : step (State.reset.withFetchWord 32 0x00140002) =
    exec (.init false 20#8) (State.reset.withFetchWord 32 0x00140002) := rfl

/-- Registers of a chip that are all zero. -/
def zeroRegs : ChanRegs := { cfr := 0#24, cftw0 := 0#32, cpow0 := 0#16, acr := 0#24, lsrr := 0#16, rdw := 0#32, fdw := 0#32, cw1 := 0#32 }

/-- A chip whose registers are all zero. -/
def zeroChip : Chip :=
  { pend := #v[zeroRegs, zeroRegs, zeroRegs, zeroRegs], act := #v[zeroRegs, zeroRegs, zeroRegs, zeroRegs]
    p1 := 0#24, a1 := 0#24, ocsr := 0#8, pcsr := 0#8, nextDraw := 1 }

/-- P2's observer, from a chip at zero: the phase and the frequency become active on channel 1 in one pulse. -/
theorem test_observer_routes : (fun c : Chip => (c.ocsr, c.act[1], c.act[0].cftw0))
    (zeroChip.observeAll false [.frame 0x00#8 [0x20#8], .frame 0x05#8 [0x10#8, 0x00#8],
      .frame 0x04#8 [0x05#8, 0x1E#8, 0xB8#8, 0x51#8], .update]) =
    (0x20#8, { zeroRegs with cftw0 := 0x051EB851#32, cpow0 := 0x1000#16 }, 0#32) := by decide
theorem test_observer_pending : (zeroChip.observeAll false [.frame 0x00#8 [0x20#8], .frame 0x05#8 [0x10#8, 0x00#8]]).act[1] =
    zeroRegs := by decide

/-- A zero hold frees the swept register's active value and keeps the rest (D62). -/
theorem test_zero_dwell_keeps_others : (fun c : Chip => (c.act[3].cpow0, c.act[3].cfr, c.act[0], c.pend, c.ocsr))
    (zeroChip.zeroDwell .freq 3) = (0#16, 0#24, zeroRegs, zeroChip.pend, 0#8) := by decide

/-- The lines of FRAME(0x04, [0x33]) up to the first two cycles: chip-select, then each bit before its leading edge (R65). -/
theorem test_wire_clock : ((Event.frame 0x04#8 [0x33#8]).wire.take 7, sampledBits true .low (Event.frame 0x04#8 [0x33#8]).wire) =
    ([.chipSelect .low, .dataBit false, .clockLine .high, .clockLine .low, .dataBit false, .clockLine .high, .clockLine .low],
     [false, false, false, false, false, true, false, false, false, false, true, true, false, false, true, true]) := by decide

/-- The host reads the table below tlen and no entry above it (R32). -/
theorem test_hostRead : (hostRead (loaded 1 .armed .armed)).map (fun v => (v.table[0], v.table[1], v.csr)) =
    some ([some 100#32, some 200#32, some 300#32], [], 0xF0#8) := by decide

theorem test_assemble_setf : assembleText "SETF.V 250000001 ; report".toList = some [.setf true .domain 250000001#32] := by
  decide
theorem test_assemble_helpers : assembleText "SETFP 0x989680, deg(90)".toList =
    some [.setp .domain 0x005A0000#32, .setf false .domain 10000000#32] := by decide
theorem test_assemble_tload : assembleText "TLOAD.W 2, [1000, 2000]".toList = some [.tload 2 .raw [1000#32, 2000#32]] := by
  decide
theorem test_assemble_refuses_qualifier : assembleText "SETP.V 1".toList = none := by decide
theorem test_program_words : programWords [.setclk 25000000#32, .init false 20#8, .select 1#4] =
    [0x00000001#32, 0x017D7840#32, 0x00140002#32, 0x00010003#32] := by decide

/-! ## Witnesses: the hypotheses of each obligation are met together, each clause at a boundary -/

/-- A block about to decode one POLL of channel 0, its table loaded. -/
def polling (h : Word) : State := { loaded (-1) .armed .armed with stream := [h] }

/-- A sweep of channel 3 in a given state, cp at the command SWPP.W 3 with hold 10. -/
def sweeping (w : Sweep) : State :=
  { ready [0x00000309#32, 0#32, 1#32, 1#32, 1#32, 0x0101#32, 10#32] with
    sweep := w, gate := #v[.low, .low, .low, gateWanted w 3] }

theorem witness_DecodeOfEncode : (Instr.tload 3 .domain (List.replicate 100 7#32)).wf = true := by decide

theorem witness_EncodeOfDecode : decode [0x0001080B#32, 5#32, 9#32] = .ok (.tload 0 .domain [5#32]) := by decide

theorem witness_HeaderSelectsOneRow : 0x007F0F0B#32 &&& Op.tload.mask ≠ Op.tload.pattern ∧
    0x007F0B0B#32 &&& Op.tload.mask = Op.tload.pattern := by decide

theorem witness_DecodeFollowsCheckOrder_opcode : (0x00000000#32).toNat % 256 = 0 ∧ 12 < (0x0000000D#32).toNat % 256 := by
  decide
theorem witness_DecodeFollowsCheckOrder_field : Op.setclk.code.toNat = (0x00001001#32).toNat % 256 ∧
    0x00001001#32 &&& Op.setclk.mask ≠ Op.setclk.pattern := by decide
theorem witness_DecodeFollowsCheckOrder_length :
    ([0x0000000B#32, 0x0065000B#32].all fun h => decide (Op.tload.code.toNat = h.toNat % 256 ∧
      h &&& Op.tload.mask = Op.tload.pattern ∧ (h.toNat / 2 ^ 16 % 128 = 0 ∨ 100 < h.toNat / 2 ^ 16 % 128))) = true := by
  decide
theorem witness_DecodeFollowsCheckOrder_truncated :
    ([(0x0001000B#32, []), (0x0064000B#32, List.replicate 99 0#32)].all fun (hw : Word × List Word) => decide
      (Op.tload.code.toNat = hw.1.toNat % 256 ∧ hw.1 &&& Op.tload.mask = Op.tload.pattern ∧
      1 ≤ hw.1.toNat / 2 ^ 16 % 128 ∧ hw.1.toNat / 2 ^ 16 % 128 ≤ 100 ∧ hw.2.length < Op.tload.count hw.1)) = true := by decide
theorem witness_DecodeFollowsCheckOrder_operand :
    0x00000009#32 &&& Op.swpp.mask = Op.swpp.pattern ∧ Op.swpp.count 0x00000009#32 ≤ [0#32, 0#32, 0#32, 0#32, 0x10000#32, 0#32].length ∧
    2 ^ 16 ≤ ([0#32, 0#32, 0#32, 0#32, 0x10000#32, 0#32].getD 4 0#32).toNat := by decide
theorem witness_DecodeFollowsCheckOrder_command :
    0x00000009#32 &&& Op.swpp.mask = Op.swpp.pattern ∧ Op.swpp.count 0x00000009#32 ≤ [0#32, 0#32, 0#32, 0#32, 0xFFFF#32, 0#32].length ∧
    ([0#32, 0#32, 0#32, 0#32, 0xFFFF#32, 0#32].getD 4 0#32).toNat < 2 ^ 16 := by decide

theorem witness_ReservedOpcodeFaults : ([0x00000000#32, 0x0000000D#32, 0x000000FF#32].all fun h =>
    decide ((ready [h]).fault = none ∧ (ready [h]).sweep = .idle ∧ (ready [h]).cmdWord (ready [h]).cp = some h ∧
      (h.toNat % 256 = 0 ∨ 13 ≤ h.toNat % 256))) = true := by decide

theorem witness_ReservedFieldFaults_header : (ready [0x00001001#32]).fault = none ∧ (ready [0x00001001#32]).sweep = .idle ∧
    (ready [0x00001001#32]).stream.drop (ready [0x00001001#32]).cp = [0x00001001#32] ∧
    Op.setclk.code.toNat = (0x00001001#32).toNat % 256 ∧ 0x00001001#32 &&& Op.setclk.mask ≠ Op.setclk.pattern := by decide
theorem witness_ReservedFieldFaults_operand :
    let ws := [0#32, 0#32, 0#32, 0#32, 0x10000#32, 0#32]
    (ready (0x00000009#32 :: ws)).stream.drop 0 = 0x00000009#32 :: ws ∧ Op.swpp.code.toNat = (0x00000009#32).toNat % 256 ∧
    0x00000009#32 &&& Op.swpp.mask = Op.swpp.pattern ∧ 6 ≤ ws.length ∧ 2 ^ 16 ≤ (ws.getD 4 0#32).toNat := by decide

theorem witness_TruncatedCommandFaults_past_end : ({ ready [] with cp := 1 } : State).stream.length < 1 ∧
    ({ ready [] with cp := 1 } : State).fault = none := by decide
theorem witness_TruncatedCommandFaults_header_only : (Instr.setclk 7#32).wf = true ∧ 1 ≤ (Instr.setclk 7#32).operandCount ∧
    (ready [1#32]).stream.drop 0 = (encode (.setclk 7#32)).take 1 := by decide
theorem witness_TruncatedCommandFaults_one_missing : (Instr.tload 0 .domain [5#32, 6#32]).wf = true ∧
    2 ≤ (Instr.tload 0 .domain [5#32, 6#32]).operandCount ∧
    (ready [0x0002080B#32, 5#32]).stream.drop 0 = (encode (.tload 0 .domain [5#32, 6#32])).take 2 := by decide

theorem witness_StepRunsDecodedInstruction : (polling 0x0001000C#32).fault = none ∧ (polling 0x0001000C#32).sweep = .idle ∧
    (polling 0x0001000C#32).stream.drop (polling 0x0001000C#32).cp = encode (.poll 0 .high .low) ++ [] := by decide
/-- Each decode fault kind, its words at cp with the stream not used up. -/
theorem witness_StepRunsDecodedInstruction_error : ([([0x0D#32], .reservedOpcode), ([0x00000405#32, 0#32], .reservedField),
    ([0x0065000B#32], .tableLength), ([0x00000001#32], .truncatedCommand)] : List (List Word × FaultKind)).all (fun p =>
      decide ((ready p.1).cp ≠ (ready p.1).stream.length ∧ decode ((ready p.1).stream.drop 0) = .error p.2)) = true := by decide
theorem witness_StepRunsDecodedInstruction_length : ([0x0000000B#32, 0x0065000B#32, 0x007F0B0B#32] : List Word).all (fun h =>
    decide ((ready [h]).stream.drop 0 = h :: [] ∧ h &&& Op.tload.mask = Op.tload.pattern ∧
      (h.toNat / 2 ^ 16 % 128 = 0 ∨ 100 < h.toNat / 2 ^ 16 % 128))) = true := by decide

theorem witness_FaultedBlockTakesNoStep : ({ ready [7#32] with fault := some .clockZero } : State).fault = some .clockZero := rfl
theorem witness_FaultedBlockTakesNoStep_final : ({ ready [7#32] with cp := 1 } : State).final = true := by decide

theorem witness_FaultChangesOnlyFault : ∃ t, (ready [0x00000804#32, 1#32]).fault = none ∧
    step (ready [0x00000804#32, 1#32]) = .next t ∧ t.fault = some .clockZero := ⟨_, rfl, rfl, rfl⟩

/-- The invariant in a state ready to decode, about to run SELECT. -/
theorem inv_select : Inv (ready [0x00010003#32]) where
  memory := by decide
  steppers := by intro c; fin_cases c <;> exact ⟨by decide, by decide, by decide, by decide, by decide⟩
  gates := by intro c; fin_cases c <;> rfl
  csrLow := rfl
  trace := ⟨by decide, by decide⟩
  onHeader := ⟨by decide, [], by decide, rfl⟩
  sweepAtHeader := trivial
  faultOutsideSweep := .inl rfl

/-- The invariant in a state inside a sweep. -/
theorem inv_running : Inv (sweeping (.running ctx3)) where
  memory := by decide
  steppers := by intro c; fin_cases c <;> exact ⟨by decide, by decide, by decide, by decide, by decide⟩
  gates := by intro c; fin_cases c <;> rfl
  csrLow := rfl
  trace := ⟨by decide, by decide⟩
  onHeader := ⟨by decide, [], by decide, rfl⟩
  sweepAtHeader := ⟨.swpp 3 .raw (ops 0 1 1 1 1 1 10), by decide, by decide⟩
  faultOutsideSweep := .inl rfl

theorem witness_UnfinishedBlockHasStep : Inv (ready [0x00010003#32]) ∧ (ready [0x00010003#32]).fault = none ∧
    (ready [0x00010003#32]).final = false := ⟨inv_select, rfl, by decide⟩

theorem witness_EveryRunEnds : Inv (sweeping (.running ctx3)) := inv_running

theorem witness_CommandPointerAdvances_done : ∃ t, (ready []).fault = none ∧ (ready []).sweep = .idle ∧
    exec (.setclk 7#32) (ready []) = .next t ∧ t.fault = none ∧ t.sweep = .idle := ⟨_, rfl, rfl, rfl, rfl, rfl⟩
theorem witness_CommandPointerAdvances_configured : ∃ t, (ready []).sweep = .idle ∧
    exec (.swpp 3 .raw (ops 0 1 1 1 1 1 10)) (ready []) = .next t ∧ t.fault = none ∧ t.sweep ≠ .idle :=
  ⟨_, rfl, rfl, rfl, by decide⟩
theorem witness_CommandPointerAdvances_start : ∃ t, (sweeping (.configured ctx3)).fault = none ∧
    (sweeping (.configured ctx3)).sweep = .configured ctx3 ∧ step (sweeping (.configured ctx3)) = .next t := ⟨_, rfl, rfl, rfl⟩
theorem witness_CommandPointerAdvances_finish : ∃ t, (sweeping (.running ctx3)).fault = none ∧
    (sweeping (.running ctx3)).sweep = .running ctx3 ∧ step (sweeping (.running ctx3)) = .next t := ⟨_, rfl, rfl, rfl⟩

theorem witness_InitResetsChipAndScalesClock_reports : true = true ∧ 20 < (21#8).toNat := by decide
theorem witness_InitResetsChipAndScalesClock_runs : (false = false ∨ (25#8).toNat ≤ 20) ∧ (20 : Fin 21).val = min (25#8).toNat 20 ∧
    ((20#8).toNat ≤ 20) := by decide

theorem witness_SelectMergesChannelMask : (0xF0#8).toNat = (15#4).toNat * 16 + (ready []).csr.toNat % 8 ∧
    (0x00#8).toNat = (0#4).toNat * 16 + (ready []).csr.toNat % 8 := by decide

theorem witness_SetfWritesTuningWordAndUpdates_reports : (500000000 : Nat) = (clocked []).clk.toNat * (clocked []).cfg.nyqNum ∧
    500000000 < (250000001#32).toNat * (clocked []).cfg.nyqDen := by decide
theorem witness_SetfWritesTuningWordAndUpdates_runs : (250000000#32).toNat * (clocked []).cfg.nyqDen ≤ 500000000 ∧
    (clocked []).clk ≠ 0#64 ∧ 0x80000000 = (250000000#32).toNat * 2 ^ 32 / (clocked []).clk.toNat % 2 ^ 32 := by decide
theorem witness_SetfWritesTuningWordAndUpdates_clockZero : (0 : Nat) = (ready []).clk.toNat * (ready []).cfg.nyqNum ∧
    (0#32).toNat * (ready []).cfg.nyqDen ≤ 0 ∧ (ready []).clk = 0#64 := by decide

theorem witness_SetpWritesPhaseWithoutUpdate : 4096 = ((0x5A0000#32).toNat + 720) / 1440 % 16384 ∧
    0x3FFF = (0xFFFFFFFF#32).toNat % 2 ^ 14 := by decide

theorem witness_SetaWritesAmplitudeAndUpdates : 1024 = ((0x10021#32).toNat * (ready []).cfg.ampFullScale + 32768) / 65536 ∧
    1023 = ((0x10020#32).toNat * (ready []).cfg.ampFullScale + 32768) / 65536 ∧ 1023 < 1024 ∧ 1023 ≤ 1023 := by decide

theorem witness_CommitPulsesUpdate : zeroChip.pend = zeroChip.act ∧ zeroChip.p1 = zeroChip.a1 := by decide

theorem witness_OnlyValidatedCommandsReport : ∃ t, (ready []).status = .ok ∧ exec (.init true 21#8) (ready []) = .next t ∧
    t.status = .invalidParameter := ⟨_, rfl, rfl, rfl⟩

/-- The csr value of channel 3 from reset's csr (all three sweep statements and POLL). -/
theorem witness_sweep_csr : (0x80#8).toNat = 2 ^ (4 + (3 : Chan).val) + (ready []).csr.toNat % 8 := by decide
theorem witness_SwpfConfiguresFrequencySweep_reports : (500000000 : Nat) = (clocked []).clk.toNat * (clocked []).cfg.nyqNum ∧
    ¬ 500000000 < (250000000#32).toNat * (clocked []).cfg.nyqDen ∧
    500000000 < (250000001#32).toNat * (clocked []).cfg.nyqDen := by decide
theorem witness_SwpfConfiguresFrequencySweep_runs : ∃ word : Word → Nat,
    (∀ w, word w = if Kind.domain = .domain then w.toNat * 2 ^ 32 / (clocked []).clk.toNat % 2 ^ 32 else w.toNat) ∧
    (250000000#32).toNat * (clocked []).cfg.nyqDen ≤ 500000000 ∧ (clocked []).clk ≠ 0#64 ∧ (ready []).clk = 0#64 :=
  ⟨_, fun _ => rfl, by decide, by decide, by decide⟩
theorem witness_SwppConfiguresPhaseSweep : ∃ (word : Word → Nat) (left : Nat → List Byte),
    (∀ w, word w = if Kind.domain = .domain then (w.toNat + 720) / 1440 % 16384 else w.toNat % 2 ^ 14) ∧
    (∀ x, left x = [BitVec.ofNat 8 (x / 2 ^ 6), BitVec.ofNat 8 (x % 2 ^ 6 * 4), 0x00#8, 0x00#8]) :=
  ⟨_, _, fun _ => rfl, fun _ => rfl⟩
theorem witness_SwpaConfiguresAmplitudeSweep : ∃ word : Word → Nat,
    (∀ w, word w = if Kind.raw = .domain then (w.toNat * (ready []).cfg.ampFullScale + 32768) / 65536 else w.toNat) ∧
    1023 < word 1024#32 ∧ word 1023#32 ≤ 1023 := ⟨fun w => w.toNat, fun _ => rfl, by decide, by decide⟩

theorem witness_ConfiguredSweepStartsRamp : (sweeping (.configured ctx3)).fault = none ∧
    (sweeping (.configured ctx3)).sweep = .configured ctx3 := ⟨rfl, rfl⟩
theorem witness_RunningSweepFinishes : (sweeping (.running ctx3)).fault = none ∧
    (sweeping (.running ctx3)).sweep = .running ctx3 ∧ ctx3.hold ≠ 0#32 := ⟨rfl, rfl, by decide⟩
theorem witness_RunningSweepFinishes_zero :
    let ctx : SweepCtx := { ch := 3, hold := 0#32, kind := .phase }
    (sweeping (.running ctx)).fault = none ∧ (sweeping (.running ctx)).sweep = .running ctx ∧ ctx.hold = 0#32 :=
  ⟨rfl, rfl, rfl⟩
theorem witness_SweepRunsToCompletion : ∃ s1, (sweeping .idle).fault = none ∧ (sweeping .idle).sweep = .idle ∧
    (sweeping .idle).stream.drop (sweeping .idle).cp = encode (.swpp 3 .raw (ops 0 1 1 1 1 1 10)) ++ [] ∧
    sweepCtxOf (.swpp 3 .raw (ops 0 1 1 1 1 1 10)) = some ctx3 ∧
    exec (.swpp 3 .raw (ops 0 1 1 1 1 1 10)) (sweeping .idle) = .next s1 ∧ s1.sweep ≠ .idle :=
  ⟨_, rfl, rfl, by decide, by decide, rfl, by decide⟩
theorem witness_SweepRunsToCompletion_zero : ∃ s1,
    let s : State := ready [0x00000309#32, 0#32, 1#32, 1#32, 1#32, 0x0101#32, 0#32]
    s.stream.drop s.cp = encode (.swpp 3 .raw (ops 0 1 1 1 1 1 0)) ++ [] ∧
    sweepCtxOf (.swpp 3 .raw (ops 0 1 1 1 1 1 0)) = some { ch := 3, hold := 0#32, kind := .phase } ∧
    exec (.swpp 3 .raw (ops 0 1 1 1 1 1 0)) s = .next s1 ∧ s1.sweep ≠ .idle :=
  ⟨_, by decide, by decide, rfl, by decide⟩
theorem witness_SweepStepIgnoresStream : ∃ t, (sweeping (.running ctx3)).fault = none ∧
    (sweeping (.running ctx3)).sweep ≠ .idle ∧ step (sweeping (.running ctx3)) = .next t := ⟨_, rfl, by decide, rfl⟩

theorem witness_TloadLoadsTable : 1 ≤ [5#32].length ∧ [5#32].length ≤ 100 ∧ 1 ≤ (List.replicate 100 5#32).length ∧
    (List.replicate 100 5#32).length ≤ 100 := by decide

/-- Channel 0's table of three entries is in its ranges and readable. -/
theorem stepperOk_loaded : StepperOk (loaded 1 .armed .armed) 0 :=
  ⟨by decide, by decide, by decide, by decide, by decide⟩
/-- A HIGH step and a HIGH reset sample on an Armed channel one entry before the end: both fire. -/
theorem witness_PollFiresAutomata : ∃ (word : Word → Nat) (act : Word → List Event),
    StepperOk (loaded 1 .armed .armed) 0 ∧ 0 < ((loaded 1 .armed .armed).stepper 0).tlen ∧
    (true = true ↔ Level.high = .high ∧ ((loaded 1 .armed .armed).stepper 0).stepLatch = .armed ∧
      ((loaded 1 .armed .armed).stepper 0).cursor < (((loaded 1 .armed .armed).stepper 0).tlen : Int) - 1) ∧
    (true = true ↔ Level.high = .high ∧ ((loaded 1 .armed .armed).stepper 0).resetLatch = .armed) ∧
    (loaded 1 .armed .armed).clk ≠ 0#64 ∧
    (0x10#8).toNat = 2 ^ (4 + (0 : Chan).val) + (loaded 1 .armed .armed).csr.toNat % 8 ∧
    (∀ w, word w = w.toNat * 2 ^ 32 / (loaded 1 .armed .armed).clk.toNat % 2 ^ 32) ∧
    (∀ w, act w = [.frame 0x00#8 [0x10#8],
      .frame 0x04#8 [BitVec.ofNat 8 (word w / 2 ^ 24), BitVec.ofNat 8 (word w / 2 ^ 16), BitVec.ofNat 8 (word w / 2 ^ 8),
        BitVec.ofNat 8 (word w)], .update]) :=
  ⟨fun w => w.toNat * 2 ^ 32 / (loaded 1 .armed .armed).clk.toNat % 2 ^ 32, _, stepperOk_loaded, by decide, by decide,
    by decide, by decide, by decide, fun _ => rfl, fun _ => rfl⟩

theorem witness_PollFaultsBeforeAnyEffect_unconfigured : ((ready []).stepper 0).tlen = 0 := by decide
theorem witness_PollFaultsBeforeAnyEffect_step :
    let s : State := { loaded 1 .armed .fired with clk := 0#64 }
    0 < (s.stepper 0).tlen ∧ (s.stepper 0).tkind = .domain ∧ s.clk = 0#64 ∧ (s.stepper 0).stepLatch = .armed ∧
    (s.stepper 0).cursor < ((s.stepper 0).tlen : Int) - 1 := by decide
theorem witness_PollFaultsBeforeAnyEffect_reset :
    let s : State := { loaded 2 .fired .armed with clk := 0#64 }
    0 < (s.stepper 0).tlen ∧ (s.stepper 0).tkind = .domain ∧ s.clk = 0#64 ∧ (s.stepper 0).resetLatch = .armed := by decide

theorem witness_QuietSamplesFireNothing_exhausted : 0 < ((loaded 2 .armed .armed).stepper 0).tlen ∧
    ((loaded 2 .armed .armed).stepper 0).cursor = (((loaded 2 .armed .armed).stepper 0).tlen : Int) - 1 := by decide
theorem witness_QuietSamplesFireNothing_held : 0 < ((loaded 0 .fired .fired).stepper 0).tlen ∧
    ((loaded 0 .fired .fired).stepper 0).stepLatch = .fired ∧ ((loaded 0 .fired .fired).stepper 0).resetLatch = .fired := by
  decide

theorem witness_StepEdgesWalkTable : ∃ (s0 : State) (word : Word → Nat) (act : Word → List Event),
    1 ≤ [5#32].length ∧ [5#32].length ≤ 100 ∧ (0 = if (clocked []).cfg.cursorInit = .minusOne then 0 else 1) ∧
    [5#32] = ([5#32].drop 0).take 2 ∧
    (clocked []).clk ≠ 0#64 ∧ exec (.tload 0 .domain [5#32]) (clocked []) = .next s0 ∧
    (0x10#8).toNat = 2 ^ (4 + (0 : Chan).val) + (clocked []).csr.toNat % 8 ∧
    (∀ w, word w = if Kind.domain = .domain then w.toNat * 2 ^ 32 / (clocked []).clk.toNat % 2 ^ 32 else w.toNat) ∧
    (∀ w, act w = [.frame 0x00#8 [0x10#8],
      .frame 0x04#8 [BitVec.ofNat 8 (word w / 2 ^ 24), BitVec.ofNat 8 (word w / 2 ^ 16), BitVec.ofNat 8 (word w / 2 ^ 8),
        BitVec.ofNat 8 (word w)], .update]) :=
  ⟨_, fun w => if Kind.domain = .domain then w.toNat * 2 ^ 32 / (clocked []).clk.toNat % 2 ^ 32 else w.toNat, _,
    by decide, by decide, by decide, by decide, by decide, rfl, by decide, fun _ => rfl, fun _ => rfl⟩
/-- The same instance but for CURSOR_INIT = 0. -/
def clockedFromZero : State := { clocked [] with cfg := { Config.defaults with cursorInit := .zero } }
/-- With CURSOR_INIT = 0: a table of two entries, of which a step edge programs the second, and one of a single entry, of which
none is programmed. -/
theorem witness_StepEdgesWalkTable_zero : ∃ s0 s1 : State,
    (1 = if clockedFromZero.cfg.cursorInit = .minusOne then 0 else 1) ∧
    [6#32] = ([5#32, 6#32].drop 1).take 2 ∧ ([] : List Word) = ([5#32].drop 1).take 2 ∧ clockedFromZero.clk ≠ 0#64 ∧
    exec (.tload 0 .domain [5#32, 6#32]) clockedFromZero = .next s0 ∧
    exec (.tload 0 .domain [5#32]) clockedFromZero = .next s1 ∧
    (0x10#8).toNat = 2 ^ (4 + (0 : Chan).val) + clockedFromZero.csr.toNat % 8 :=
  ⟨_, _, by decide, by decide, by decide, by decide, rfl, rfl, by decide⟩
/-- With CURSOR_INIT = 0 the first step edge programs entry 1, not entry 0. -/
theorem test_step_edge_from_zero : after (andThen (exec (.tload 0 .raw [5#32, 6#32]) clockedFromZero) (stepEdges 0 1))
    (fun s => ((s.stepper 0).cursor, s.trace)) =
    some (1, [.frame 0x00#8 [0x10#8], .frame 0x04#8 [0#8, 0#8, 0#8, 6#8], .update]) := by decide

theorem witness_StepperChannelsAreSeparate : ∃ t, exec (.tload 1 .domain [5#32]) (clocked []) = .next t ∧ (1 : Chan) ≠ 0 :=
  ⟨_, rfl, by decide⟩
/-- A command that changes its field and nothing else of R20's table, so each premise of the writers' statement is met. -/
theorem witness_EachFieldHasItsWriters : ∃ t, exec (.setclk 7#32) (ready []) = .next t ∧ t.baseClk ≠ (ready []).baseClk ∧
    t.clk ≠ (ready []).clk := ⟨_, rfl, by decide, by decide⟩
theorem witness_EachFieldHasItsWriters_poll : after (exec (.poll 0 .high .low) (loaded (-1) .armed .armed)) (fun t =>
    decide (t.csr ≠ (loaded (-1) .armed .armed).csr ∧ t.lastFreq ≠ (loaded (-1) .armed .armed).lastFreq ∧
      t.steppers ≠ (loaded (-1) .armed .armed).steppers ∧ (t.stepper 0).cursor ≠ -1 ∧ (t.stepper 0).stepLatch ≠ .armed ∧
      t.trace ≠ (loaded (-1) .armed .armed).trace)) = some true ∧
    after (exec (.poll 0 .low .high) (loaded 2 .armed .armed)) (fun t => decide ((t.stepper 0).resetLatch ≠ .armed)) =
      some true := by decide
theorem witness_EachFieldHasItsWriters_rest : after (exec (.setp .raw 1#32) (ready [])) (fun t =>
      decide (t.lastPhase ≠ (ready []).lastPhase)) = some true ∧
    after (exec (.swpp 3 .raw (ops 0 1 1 1 1 1 10)) (ready [])) (fun t => decide (t.sweep ≠ (ready []).sweep)) = some true ∧
    after (exec (.tload 0 .raw [1#32]) (ready [])) (fun t => decide (t.mem ≠ (ready []).mem ∧
      (t.stepper 0).tlen ≠ ((ready []).stepper 0).tlen ∧ (t.stepper 0).tkind ≠ ((ready []).stepper 0).tkind)) =
      some true := by decide
theorem witness_TableMemoryFrame : ∃ t, exec (.tload 0 .domain [5#32]) (clocked []) = .next t ∧
    ¬(tableAddr 0 0 ≤ 1 ∧ 1 < tableAddr 0 0 + [5#32].length) := ⟨_, rfl, by decide⟩
theorem witness_StepAppendsToTrace : ∃ t, step (ready [7#32]) = .next t := ⟨_, rfl⟩

theorem witness_StepKeepsMemoryCanonical : ∃ t, (ready [0x0001080B#32, 5#32]).mem.wf ∧
    step (ready [0x0001080B#32, 5#32]) = .next t := ⟨_, by decide, rfl⟩
theorem witness_StepKeepsCsrLowBits : ∃ t, step (ready [0x00010003#32]) = .next t := ⟨_, rfl⟩
theorem witness_StepKeepsCursorsInTables : ∃ t, (∀ c, StepperOk (ready [0x0001080B#32, 5#32]) c) ∧
    step (ready [0x0001080B#32, 5#32]) = .next t := by
  refine ⟨_, fun c => ?_, rfl⟩
  fin_cases c <;> exact ⟨by decide, by decide, by decide, by decide, by decide⟩
theorem witness_StepKeepsGatesWithSweep : ∃ t, GatesOk (sweeping (.running ctx3)) ∧
    step (sweeping (.running ctx3)) = .next t := ⟨_, inv_running.gates, rfl⟩
theorem witness_StepKeepsTraceLegal : ∃ t, TraceLegal (ready [0x00140002#32]) ∧ step (ready [0x00140002#32]) = .next t :=
  ⟨_, ⟨by decide, by decide⟩, rfl⟩
theorem witness_StepKeepsCommandPointerOnHeaders : ∃ t, OnHeader (sweeping (.running ctx3)) ∧
    SweepAtHeader (sweeping (.running ctx3)) ∧ step (sweeping (.running ctx3)) = .next t :=
  ⟨_, inv_running.onHeader, inv_running.sweepAtHeader, rfl⟩
theorem witness_StepKeepsInvariant_step : ∃ t, Inv (sweeping (.running ctx3)) ∧ step (sweeping (.running ctx3)) = .next t :=
  ⟨_, inv_running, rfl⟩
theorem witness_StepKeepsInvariant_host : ∃ t, Inv (ready [0x00010003#32]) ∧
    hostMove (.blockReset [7#32]) (ready [0x00010003#32]) = some t := ⟨_, inv_select, rfl⟩
theorem witness_InvariantHoldsAtReset : Config.defaults.legal := by decide

theorem witness_BlockResetGivesResetValues : (ready [7#32]).sweep = .idle := rfl
theorem witness_HostMovesAreLimited_sweep : (sweeping (.running ctx3)).sweep ≠ .idle := by decide
theorem witness_HostMovesAreLimited_idle : ∃ t, (ready []).sweep = .idle ∧ hostMove (.blockReset [7#32]) (ready []) = some t :=
  ⟨_, rfl, rfl⟩
theorem witness_PseudoInstructionsExpand : (Kind.raw = if true then Kind.raw else .domain) ∧ 2 ^ 32 - 1 < 2 ^ 32 := by decide

theorem witness_TuningWordLaws : 0 < 1 ∧ (499999999 : Nat) < 500000000 ∧ (0 : Nat) ≤ 499999999 ∧ ftwHz 0 500000000 = some 0 := by
  decide
theorem witness_FramesCommuteBeforeUpdate : addrFtw ≠ addrPow ∧ addrFtw ≠ 0x00#8 ∧ addrPow ≠ 0x00#8 := by decide
theorem witness_SetfReachesSelectedChannels : (clocked []).clk ≠ 0#64 ∧
    (250000000#32).toNat * (clocked []).cfg.nyqDen ≤
      (if Kind.domain = .domain then (clocked []).clk.toNat else 2 ^ 32) * (clocked []).cfg.nyqNum ∧
    0x80000000 = (if Kind.domain = .domain then (250000000#32).toNat * 2 ^ 32 / (clocked []).clk.toNat % 2 ^ 32
      else (250000000#32).toNat) := by decide
theorem witness_SelectRealignsChipCsr : ∃ t u, exec (.select 1#4) (ready []) = .next t ∧ exec .commit t = .next u ∧
    (ready []).cfg.csrBuffered = false := ⟨_, _, rfl, rfl, rfl⟩
theorem witness_InitForgetsChipRegisters : zeroChip.nextDraw = (ready []).chip.nextDraw ∧ (true = true → (20#8).toNat ≤ 20) ∧
    (20 : Fin 21).val = min (20#8).toNat 20 := ⟨rfl, by decide, by decide⟩
theorem witness_InitForgetsChipRegisters_clamped : (false = true → (25#8).toNat ≤ 20) ∧
    (20 : Fin 21).val = min (25#8).toNat 20 := by decide
theorem witness_FrameOnTheBus : (Event.frame 0x0A#8 [0#8, 0#8, 0#8, 0#8]).legal = true := by decide
theorem witness_FrameOnTheBus_bits : ∃ bits : List Bool,
    bits = (([0x0A#8, 0#8] : List Byte).flatMap fun b => (List.range 8).map fun j => b.getLsbD (7 - j)) := ⟨_, rfl⟩
theorem witness_CommandEventCounts : ∃ t, (loaded (-1) .armed .armed).sweep = .idle ∧
    exec (.poll 0 .low .low) (loaded (-1) .armed .armed) = .next t ∧ t.fault = none ∧
    t.status = .ok ∧ t.trace = (loaded (-1) .armed .armed).trace ++ [] := ⟨_, rfl, rfl, rfl, rfl, rfl⟩
/-- A sweep that configures right after a report, as in program P4. -/
theorem witness_CommandEventCounts_configured : ∃ t, ({ ready [] with status := .invalidParameter } : State).sweep = .idle ∧
    exec (.swpa 3 false .raw (ops 0 1023 4 4 2 2 10)) { ready [] with status := .invalidParameter } = .next t ∧
    t.fault = none ∧ t.sweep ≠ .idle ∧ t.status = .invalidParameter := ⟨_, rfl, rfl, rfl, by decide, rfl⟩
theorem witness_CommandEventCounts_whole_sweep : ∃ s1 t, (sweeping .idle).fault = none ∧ (sweeping .idle).sweep = .idle ∧
    (sweeping .idle).stream.drop (sweeping .idle).cp = encode (.swpp 3 .raw (ops 0 1 1 1 1 1 10)) ++ [] ∧
    sweepCtxOf (.swpp 3 .raw (ops 0 1 1 1 1 1 10)) = some ctx3 ∧
    exec (.swpp 3 .raw (ops 0 1 1 1 1 1 10)) (sweeping .idle) = .next s1 ∧ s1.sweep ≠ .idle ∧
    runSteps 3 (sweeping .idle) = .next t ∧ t.trace = (sweeping .idle).trace ++ t.trace :=
  ⟨_, _, rfl, rfl, by decide, by decide, rfl, by decide, rfl, rfl⟩
theorem witness_CommandEventCounts_fault : ∃ t, (ready []).fault = none ∧ (ready []).sweep = .idle ∧
    exec (.setf false .domain 1#32) (ready []) = .next t ∧ t.fault ≠ none := ⟨_, rfl, rfl, rfl, by decide⟩
theorem witness_CommandEventCounts_report : ∃ t, (ready []).fault = none ∧ (ready []).sweep = .idle ∧
    exec (.init true 21#8) (ready []) = .next t ∧ t.status = .invalidParameter ∧ t.sweep = .idle :=
  ⟨_, rfl, rfl, rfl, rfl, rfl⟩

end Sys2Proof.Tests
end

/-! PROOFS. Big-endian payloads (R8, R66): the length of a byte list and the value it stands for. -/

namespace Sys2Proof.Machine

@[simp] theorem bytesBE_length (n v : Nat) : (bytesBE n v).length = n := by
  induction n with
  | zero => rfl
  | succ n ih => simp [bytesBE, ih]

@[simp] theorem payloadValue_nil : payloadValue [] = 0 := rfl

/-- The accumulator of `payloadValue`'s fold is moved left by the bytes still to come. -/
theorem foldl_bytes_eq_add_payloadValue (bs : List Byte) (acc : Nat) :
    bs.foldl (fun a b => a * 256 + b.toNat) acc = acc * 2 ^ (8 * bs.length) + payloadValue bs := by
  induction bs generalizing acc with
  | nil => simp
  | cons b bs ih =>
    have hpow : 2 ^ (8 * (b :: bs).length) = 256 * 2 ^ (8 * bs.length) := by
      rw [List.length_cons, Nat.mul_succ, Nat.pow_add, Nat.mul_comm]
    rw [payloadValue, List.foldl_cons, List.foldl_cons, ih, ih (0 * 256 + b.toNat), hpow]
    ring

/-- The first byte of a payload is its most significant one (R66). -/
theorem payloadValue_cons (b : Byte) (bs : List Byte) :
    payloadValue (b :: bs) = b.toNat * 2 ^ (8 * bs.length) + payloadValue bs := by
  simpa [payloadValue] using foldl_bytes_eq_add_payloadValue bs b.toNat

/-- Reading BE_n back gives the value mod 2^(8n): each further byte is the next base-256 digit (R8, R66). -/
theorem payloadValue_bytesBE (n v : Nat) : payloadValue (bytesBE n v) = v % 2 ^ (8 * n) := by
  induction n with
  | zero => simp [bytesBE, Nat.mod_one]
  | succ n ih =>
    calc payloadValue (bytesBE (n + 1) v)
        = v / 2 ^ (8 * n) % 2 ^ 8 * 2 ^ (8 * n) + v % 2 ^ (8 * n) := by
          rw [bytesBE, payloadValue_cons, bytesBE_length, ih, BitVec.toNat_ofNat, Nat.shiftRight_eq_div_pow]
      _ = v % (2 ^ (8 * n) * 2 ^ 8) := by rw [Nat.mod_mul, Nat.add_comm, Nat.mul_comm (_ % _)]
      _ = v % 2 ^ (8 * (n + 1)) := by rw [← Nat.pow_add, Nat.mul_succ]

/-- Settles O53, by induction on the number of bytes. -/
theorem payloadStandsForItsValue : Obligations.PayloadStandsForItsValue :=
  fun n v => ⟨bytesBE_length n v, payloadValue_bytesBE n v⟩

end Sys2Proof.Machine

/-! PROOFS. What one command can do (R300): it raises a fault, reports, configures a sweep, or completes with its own
effect. -/

namespace Sys2Proof.Machine

/-- The commands that check their operands: the five of R301, with V = 1 (R102). -/
def Validated (i : Instr) : Prop :=
  (∃ k w, i = .setf true k w) ∨ (∃ k w, i = .seta true k w) ∨ (∃ x, i = .init true x) ∨
    (∃ ch k p, i = .swpf ch true k p) ∨ (∃ ch k p, i = .swpa ch true k p)

/-- What POLL's two automata may do to their channel (R263, R264): the table stays, the cursor stays, moves on inside the
table, or goes to entry 0. -/
structure PollMoves (t u : Stepper) : Prop where
  configured : 0 < t.tlen
  tlen : u.tlen = t.tlen
  tkind : u.tkind = t.tkind
  cursor : u.cursor = t.cursor ∨ u.cursor = 0 ∨ (t.cursor < (t.tlen : Int) - 1 ∧ u.cursor = t.cursor + 1)

/-- A state that POLL's automata may leave: of channel `c` the stepper `u`, some legal events, the csr they select (R265). -/
def polled (s : State) (c : Chan) (u : Stepper) (csr : Byte) (lf : Option (Kind × Word)) (es : List Event) : State :=
  { s.emit es with csr := csr, lastFreq := lf, steppers := s.steppers.set c.val u }

/-- What a command that completes leaves in its last step, status and cp aside (R180 to R186, R261, R262). -/
inductive Completes (s : State) : Instr → State → Prop
  | setclk (hz : Word) : Completes s (.setclk hz) (s.setClock hz)
  | init (v : Bool) (x : Byte) :
    Completes s (.init v x)
      ((s.emit [.reset s.cfg.resetPulseMs, .frame addrFr1 (fr1Bytes s.cfg (pllRatio x)), .update]).scaleClock
        (pllRatio x).val)
  | select (m : BitVec 4) : Completes s (.select m) (s.selectMask m)
  | setf (v : Bool) (k : Kind) (w : Word) (x : Nat) (hx : ftwOf k w.toNat s.clk.toNat = some x) :
    Completes s (.setf v k w) ((s.emit [.frame addrFtw (ftwBytes x), .update]).setLastFreq k w)
  | setp (k : Kind) (w : Word) :
    Completes s (.setp k w) ((s.emit [.frame addrPow (powBytes (powOf k w.toNat))]).setLastPhase k w)
  | seta (v : Bool) (k : Kind) (w : Word) :
    Completes s (.seta v k w) (s.emit [.frame addrAcr (ampBytes (acw s.cfg.ampFullScale k w.toNat)), .update])
  | commit : Completes s .commit (s.emit [.update])
  | tload (ch : Chan) (k : Kind) (es : List Word) (h : 1 ≤ es.length ∧ es.length ≤ Config.tableMax) :
    Completes s (.tload ch k es) ((s.tableWrite ch es).setStepper ch
      { tlen := es.length, tkind := k, cursor := cursorInitValue s.cfg.cursorInit
        stepLatch := .armed, resetLatch := .armed })
  | poll (ch : Chan) (a b : Level) (u : Stepper) (csr : Byte) (lf : Option (Kind × Word)) (es : List Event)
      (hu : PollMoves (s.stepper ch) u) (hcsr : csr &&& 0x07#8 = s.csr &&& 0x07#8) (hes : ∀ e ∈ es, e.legal = true) :
    Completes s (.poll ch a b) (polled s ch u csr lf es)

/-- The four ends of a command's own step (R300, R223). -/
inductive ExecOutcome (s : State) : Instr → State → Prop
  | raised (i : Instr) (k : FaultKind) : ExecOutcome s i (s.raise k)
  | reported {i : Instr} (hv : Validated i) : ExecOutcome s i (s.report i.operandCount)
  | configured {i : Instr} {kind : SweepKind} {ch : Chan} {p : SweepOps} {w : SweepWords}
      (hc : sweepCtxOf i = some { ch := ch, hold := p.hold, kind := kind }) (hw : w.Fits) :
    ExecOutcome s i (configureSweep kind ch p w s)
  | completed {i : Instr} {u : State} (h : Completes s i u) : ExecOutcome s i (u.complete i.operandCount)

/-! ## POLL's two automata as one record -/

/-- The events of a program action are legal (R63). -/
theorem programEvents_legal (csr : Byte) (c : Chan) (x : Nat) : ∀ e ∈ programEvents csr c x, e.legal = true := by
  intro e he
  simp only [programEvents, List.mem_cons, List.not_mem_nil, or_false] at he
  rcases he with rfl | rfl | rfl <;> rfl

/-- An automaton's effect as one record. -/
theorem AutomatonEffect.polled {c : Chan} {u : Stepper} {s t : State} (h : AutomatonEffect c u s t) :
    ∃ csr lf es, csr &&& 0x07#8 = s.csr &&& 0x07#8 ∧ (∀ e ∈ es, Event.legal e = true) ∧
      t = polled s c u csr lf es := by
  rcases h with rfl | ⟨i, e, x, -, -, rfl⟩
  · exact ⟨s.csr, s.lastFreq, [], rfl, by simp, by simp [Machine.polled, State.setStepper]⟩
  · exact ⟨_, _, _, csrMerge_low _ _, programEvents_legal s.csr c x, rfl⟩

@[simp] theorem stepper_polled_self (s : State) (c : Chan) (u : Stepper) (csr : Byte) (lf : Option (Kind × Word))
    (es : List Event) : (polled s c u csr lf es).stepper c = u := by
  simp [polled, State.stepper]

/-- Two polled states of one channel are one, with both lists of events. -/
theorem polled_polled (s : State) (c : Chan) (u u' : Stepper) (csr csr' : Byte) (lf lf' : Option (Kind × Word))
    (es fs : List Event) : polled (polled s c u csr lf es) c u' csr' lf' fs = polled s c u' csr' lf' (es ++ fs) := by
  simp [polled, State.emit]

/-- A step sample fires only below the last entry (R263). -/
theorem cursor_lt_of_stepFires {t : Stepper} {l : Level} (h : stepFires t l = true) : t.cursor < (t.tlen : Int) - 1 := by
  simp only [stepFires, decide_eq_true_eq] at h
  exact h.2.2

/-- POLL's two automata in order, as one record (R262 to R265). -/
theorem automata_polled {c : Chan} {a b : Level} {s s1 s2 : State} (h0 : 0 < (s.stepper c).tlen)
    (h1 : stepAutomaton c a s = some s1) (h2 : resetAutomaton c b s1 = some s2) :
    ∃ u csr lf es, PollMoves (s.stepper c) u ∧ csr &&& 0x07#8 = s.csr &&& 0x07#8 ∧
      (∀ e ∈ es, Event.legal e = true) ∧ s2 = polled s c u csr lf es := by
  obtain ⟨csr, lf, es, hc, hl, rfl⟩ := (stepAutomaton_effect h1).polled
  obtain ⟨csr', lf', es', hc', hl', rfl⟩ := (resetAutomaton_effect h2).polled
  refine ⟨_, csr', lf', es ++ es', ⟨h0, ?tlen, ?tkind, ?cursor⟩, hc'.trans hc,
    List.forall_mem_append.2 ⟨hl, hl'⟩, polled_polled ..⟩
  case tlen | tkind => simp
  case cursor =>
    simp only [stepper_polled_self]
    split
    · next hstep =>
      split
      · exact .inr (.inl rfl)
      · exact .inr (.inr ⟨cursor_lt_of_stepFires hstep, rfl⟩)
    · split
      · exact .inr (.inl rfl)
      · exact .inl rfl

/-! ## The outcome of each command -/

/-- A command that checks its operands reports where the check fails, and goes on elsewhere (R301). -/
theorem ite_report_next {c : Bool} {n : Nat} {s t : State} {r : Result}
    (h : (if c = true then Host.Outcome.next (s.report n) else r) = .next t) :
    (c = true ∧ t = s.report n) ∨ r = .next t := by
  split at h
  · next hc => cases h; exact .inl ⟨hc, rfl⟩
  · exact .inr h

/-- A command's own step that answers a next state is one of the four ends. -/
theorem exec_outcome {i : Instr} {s t : State} (h : exec i s = .next t) : ExecOutcome s i t := by
  cases i with
  | setclk hz => cases h; exact .completed (.setclk hz)
  | select m => cases h; exact .completed (.select m)
  | setp k w => cases h; exact .completed (.setp k w)
  | commit => cases h; exact .completed .commit
  | init v x =>
    rcases ite_report_next h with ⟨hv, rfl⟩ | h
    · obtain rfl : v = true := (Bool.and_eq_true_iff.1 hv).1
      exact .reported (.inr (.inr (.inl ⟨x, rfl⟩)))
    · cases h; exact .completed (.init v x)
  | setf v k w =>
    rcases ite_report_next h with ⟨hv, rfl⟩ | h
    · obtain rfl : v = true := (Bool.and_eq_true_iff.1 hv).1
      exact .reported (.inl ⟨k, w, rfl⟩)
    · split at h
      · cases h; exact .raised _ _
      · next x hx => cases h; exact .completed (.setf v k w x hx)
  | seta v k w =>
    rcases ite_report_next h with ⟨hv, rfl⟩ | h
    · obtain rfl : v = true := (Bool.and_eq_true_iff.1 hv).1
      exact .reported (.inr (.inl ⟨k, w, rfl⟩))
    · cases h; exact .completed (.seta v k w)
  | swpf ch v k p =>
    rcases ite_report_next h with ⟨hv, rfl⟩ | h
    · obtain rfl : v = true := (Bool.and_eq_true_iff.1 hv).1
      exact .reported (.inr (.inr (.inr (.inl ⟨ch, k, p, rfl⟩))))
    · split at h
      · cases h; exact .raised _ _
      · next w hw => cases h; exact .configured rfl (freqSweepWords_fits hw)
  | swpp ch k p => cases h; exact .configured rfl (phaseSweepWords_fits k p)
  | swpa ch v k p =>
    rcases ite_report_next h with ⟨hv, rfl⟩ | h
    · obtain rfl : v = true := (Bool.and_eq_true_iff.1 hv).1
      exact .reported (.inr (.inr (.inr (.inr ⟨ch, k, p, rfl⟩))))
    · cases h; exact .configured rfl (ampSweepWords_fits _ k p)
  | tload ch k es =>
    simp only [exec, execTload] at h
    split at h
    · cases h; exact .raised _ _
    · cases h; exact .completed (.tload ch k es (by omega))
  | poll ch a b =>
    rcases execPoll_next h with ⟨-, rfl⟩ | ⟨-, -, -, rfl⟩ | ⟨h0, s1, s2, h1, h2, rfl⟩
    · exact .raised _ _
    · exact .raised _ _
    · obtain ⟨u, csr, lf, es, hu, hcsr, hes, rfl⟩ := automata_polled h0 h1 h2
      exact .completed (.poll ch a b u csr lf es hu hcsr hes)

end Sys2Proof.Machine

/-! PROOFS. The words a decoded command came from (R101, R106, R111): they are its encoding, and words after them do not
change what is decoded. -/

namespace Sys2Proof

/-! ## Headers -/

/-- A header that matches its row of R107 is the header of its own fields. -/
theorem eq_header_of_matches {h : Word} {o : Op} (e : h &&& o.mask = o.pattern) :
    h = header o (hdrCh h) (hdrV h) (hdrK h).bit (hdrImm8 h) := by
  refine eq_header (BitVec.eq_of_toNat_eq ?_) rfl rfl (hdrK_bit h).symm ?_ rfl ?_
  · rw [hdrOp_toNat, code_of_pattern e]
  · exact (extract_of_masked e 12 4 (by cases o <;> decide)).trans (by cases o <;> decide)
  · exact (extract_of_masked e 24 8 (by cases o <;> decide)).trans (by cases o <;> decide)

section
variable {h : Word} {o : Op} (e : h &&& o.mask = o.pattern)
include e

/-- A row that reserves ch has channel 0. -/
theorem hdrCh_of_matches (hm : o.mask.extractLsb' 8 2 = BitVec.allOnes 2) : hdrCh h = 0 := by
  have h1 := extract_of_masked e 8 2 hm
  have h2 : o.pattern.extractLsb' 8 2 = 0#2 := by cases o <;> decide
  rw [hdrCh, h1, h2]
  rfl

/-- A row that reserves V has V = 0. -/
theorem hdrV_of_matches (hm : o.mask.extractLsb' 10 1 = BitVec.allOnes 1) : hdrV h = false := by
  have h1 := (extract_of_masked e 10 1 hm).trans (show o.pattern.extractLsb' 10 1 = 0#1 by cases o <;> decide)
  simpa [hdrV] using congrArg (·.getLsbD 0) h1

/-- A row that reserves K has K = 0. -/
theorem hdrK_of_matches (hm : o.mask.extractLsb' 11 1 = BitVec.allOnes 1) : hdrK h = .raw := by
  have h1 := (extract_of_masked e 11 1 hm).trans (show o.pattern.extractLsb' 11 1 = 0#1 by cases o <;> decide)
  have h2 : h[11] = false := by simpa using congrArg (·.getLsbD 0) h1
  simp [hdrK, h2]

/-- A row that reserves imm8 from its bit `n` on has an imm8 below `2 ^ n`. -/
theorem hdrImm8_lt_of_matches (n : Nat) (hn : n ≤ 8)
    (hm : o.mask.extractLsb' (16 + n) (8 - n) = BitVec.allOnes (8 - n)) : (hdrImm8 h).toNat < 2 ^ n := by
  have hp : o.pattern.toNat < 2 ^ (16 + n) :=
    (show o.pattern.toNat < 2 ^ 16 by cases o <;> decide).trans_le (Nat.pow_le_pow_right (by decide) (by omega))
  have h1 := congrArg BitVec.toNat (extract_of_masked e (16 + n) (8 - n) hm)
  simp only [BitVec.extractLsb'_toNat, Nat.shiftRight_eq_div_pow, Nat.div_eq_of_lt hp, Nat.zero_mod] at h1
  have h2 : (hdrImm8 h).toNat / 2 ^ n = 0 := by
    calc (hdrImm8 h).toNat / 2 ^ n
        = h.toNat / 2 ^ 16 % (2 ^ n * 2 ^ (8 - n)) / 2 ^ n := by
          rw [← Nat.pow_add, Nat.add_sub_cancel' hn, hdrImm8, BitVec.extractLsb'_toNat, Nat.shiftRight_eq_div_pow]
      _ = h.toNat / 2 ^ (16 + n) % 2 ^ (8 - n) := by
          rw [Nat.mod_mul_right_div_self, Nat.div_div_eq_div_mul, ← Nat.pow_add]
      _ = 0 := h1
  exact Nat.lt_of_div_eq_zero (Nat.two_pow_pos n) h2

/-- A row that reserves imm8 has imm8 = 0. -/
theorem hdrImm8_of_matches (hm : o.mask.extractLsb' 16 8 = BitVec.allOnes 8) : hdrImm8 h = 0 := by
  have h1 := hdrImm8_lt_of_matches e 0 (by decide) hm
  exact BitVec.eq_of_toNat_eq (by simpa using h1)

end

/-! ## Operands -/

/-- The operand of a row that has one is the first word after the header. -/
theorem take_one_eq_operand {tl : List Word} (h : 1 ≤ tl.length) : tl.take 1 = [operand tl 0] := by
  obtain ⟨a, tl, rfl⟩ := List.exists_cons_of_length_pos h
  rfl

/-- A sweep's operands are the words they were built from (R105, R109). -/
theorem words_of_decodeSweepOps {tl : List Word} {p : SweepOps} (h : decodeSweepOps tl = .ok p) (hl : 6 ≤ tl.length) :
    p.words = tl.take 6 := by
  obtain ⟨h4, rfl⟩ := decodeSweepOps_ok h
  match tl, hl with
  | a :: b :: c :: d :: x :: y :: tl, _ =>
    have hx : x.toNat < 2 ^ 16 := (highHalf_eq_zero x).1 h4
    have hr : BitVec.ofNat 32 ((x.extractLsb' 0 8).toNat + (x.extractLsb' 8 8).toNat * 2 ^ 8) = x := by
      apply BitVec.eq_of_toNat_eq
      simp only [BitVec.extractLsb'_toNat, BitVec.toNat_ofNat, Nat.shiftRight_eq_div_pow]
      omega
    simp only [SweepOps.words, operand, List.getD_cons_succ, List.getD_cons_zero, hr, List.take_succ_cons, List.take_zero]

/-- A mapped result is a value exactly of a value: a sweep's command is built only from its operands. -/
theorem ok_of_map_ok {α β : Type} {x : Except FaultKind α} {f : α → β} {b : β} (h : x.map f = .ok b) :
    ∃ a, x = .ok a ∧ b = f a := by
  cases x with
  | error k => exact nomatch h
  | ok a => exact ⟨a, rfl, (Except.ok.inj h).symm⟩

/-- A row's command has the operand words it was built from (R105, R106). -/
theorem operandWords_of_buildInstr {o : Op} {h : Word} {tl : List Word} {i : Instr} (hc : o.count h ≤ tl.length)
    (hb : buildInstr o h tl = .ok i) : operandWords i = tl.take (o.count h) := by
  cases o with
  | init | select | commit | poll => cases hb; rfl
  | setclk | setf | setp | seta => cases hb; exact (take_one_eq_operand hc).symm
  | swpf | swpp | swpa =>
    obtain ⟨p, hp, rfl⟩ := ok_of_map_ok hb
    exact words_of_decodeSweepOps hp hc
  | tload => cases hb; rfl

/-- A row's command has the header it was built from (R101, R104, R109). -/
theorem encodeHeader_of_buildInstr {o : Op} {h : Word} {tl : List Word} {i : Instr} (hp : RowPasses o h tl)
    (hb : buildInstr o h tl = .ok i) : encodeHeader i = h := by
  obtain ⟨e, hlen, hcount⟩ := hp
  have hh := eq_header_of_matches e
  have hch := hdrCh_of_matches e
  have hv := hdrV_of_matches e
  have hk := hdrK_of_matches e
  have himm := hdrImm8_of_matches e
  have hlt := hdrImm8_lt_of_matches e
  cases o with
  | setclk | commit =>
    cases hb
    rw [hh, hch (by decide), hv (by decide), hk (by decide), himm (by decide)]
    rfl
  | init =>
    cases hb
    rw [hh, hch (by decide), hk (by decide)]
    simp [encodeHeader, Kind.bit]
  | select =>
    cases hb
    have hm : (hdrMask h).setWidth 8 = hdrImm8 h := by
      have := hlt 4 (by decide) (by decide)
      rw [hdrMask_eq]
      bv_omega
    rw [encodeHeader, hm]
    rw [hch (by decide), hv (by decide), hk (by decide)] at hh
    exact hh.symm
  | setf | seta =>
    cases hb
    rw [hch (by decide), himm (by decide)] at hh
    exact hh.symm
  | setp =>
    cases hb
    rw [hch (by decide), hv (by decide), himm (by decide)] at hh
    exact hh.symm
  | swpf | swpa =>
    obtain ⟨p, -, rfl⟩ := ok_of_map_ok hb
    rw [himm (by decide)] at hh
    exact hh.symm
  | swpp =>
    obtain ⟨p, -, rfl⟩ := ok_of_map_ok hb
    rw [hv (by decide), himm (by decide)] at hh
    exact hh.symm
  | tload =>
    cases hb
    have hm : BitVec.ofNat 8 ((tl.take (hdrLen h)).length % 2 ^ 7) = hdrImm8 h := by
      have := hlt 7 (by decide) (by decide)
      have hl : hdrLen h ≤ tl.length := hcount
      rw [List.length_take_of_le hl, hdrLen_eq]
      apply BitVec.eq_of_toNat_eq
      rw [BitVec.toNat_ofNat]
      omega
    rw [encodeHeader, hm]
    rw [hv (by decide)] at hh
    exact hh.symm
  | poll =>
    cases hb
    have hm : BitVec.ofNat 8 ((hdrStep h).bit.toNat + (hdrRst h).bit.toNat * 2) = hdrImm8 h := by
      have := hlt 2 (by decide) (by decide)
      rw [hdrStep_eq, hdrRst_eq]
      generalize hdrImm8 h = imm at this
      revert imm
      decide
    rw [encodeHeader, hm]
    rw [hv (by decide), hk (by decide)] at hh
    exact hh.symm

/-- The stream from a decoded command on begins with exactly the command's words. -/
theorem eq_encode_append_of_decode {ws : List Word} {i : Instr} (hd : decode ws = .ok i) :
    ws = encode i ++ ws.drop (1 + i.operandCount) := by
  obtain ⟨h, tl, o, rfl, -, hp, hb⟩ := decode_ok hd
  have hcount : o.count h ≤ tl.length := hp.2.2
  rw [encode, encodeHeader_of_buildInstr hp hb, operandWords_of_buildInstr hcount hb, Nat.add_comm 1,
    buildInstr_operandCount hcount hb]
  simp

/-! ## Words after a command -/

/-- An operand that stands in the words is the same with more words after them. -/
theorem operand_append {tl : List Word} (ws : List Word) {k : Nat} (h : k < tl.length) :
    operand (tl ++ ws) k = operand tl k := by
  simp [operand, List.getD_eq_getElem?_getD, List.getElem?_append_left h]

/-- A sweep's operands do not depend on the words after them. -/
theorem decodeSweepOps_append {tl : List Word} (ws : List Word) (hl : 6 ≤ tl.length) :
    decodeSweepOps (tl ++ ws) = decodeSweepOps tl := by
  simp (disch := omega) only [decodeSweepOps, operand_append]

/-- A row's command does not depend on the words after its operands. -/
theorem buildInstr_append {o : Op} {h : Word} {tl : List Word} (ws : List Word) (hc : o.count h ≤ tl.length) :
    buildInstr o h (tl ++ ws) = buildInstr o h tl := by
  cases o with
  | init | select | commit | poll => rfl
  | setclk | setf | setp | seta =>
    have h1 : 0 < tl.length := hc
    simp only [buildInstr, operand_append ws h1]
  | swpf | swpp | swpa =>
    have h6 : 6 ≤ tl.length := hc
    simp only [buildInstr, decodeSweepOps_append ws h6]
  | tload =>
    have hl : hdrLen h ≤ tl.length := hc
    simp only [buildInstr, List.take_append_of_le_length hl]

/-- A decoded command is decoded whatever words follow. -/
theorem decode_append {tl : List Word} {i : Instr} (ws : List Word) (hd : decode tl = .ok i) :
    decode (tl ++ ws) = .ok i := by
  obtain ⟨h, tl, o, rfl, ho, ⟨hmatch, hlen, hcount⟩, hb⟩ := decode_ok hd
  have hp : RowPasses o h (tl ++ ws) := ⟨hmatch, hlen, hcount.trans (by simp)⟩
  simp only [List.cons_append, decode, ho]
  rw [decodeRow_of_passes hp, buildInstr_append ws hcount, hb]

end Sys2Proof

/-! PROOFS. What each field of the block is after a command (R20, R37, R300), and the statements that say it command by
command. -/

namespace Sys2Proof.Machine

/-! ## Fields that no completing command's effect changes -/

section
variable {s u : State} {i : Instr} (h : Completes s i u)
include h

theorem Completes.cfg : u.cfg = s.cfg := by cases h <;> rfl
theorem Completes.stream : u.stream = s.stream := by cases h <;> rfl
theorem Completes.cp : u.cp = s.cp := by cases h <;> rfl
theorem Completes.fault : u.fault = s.fault := by cases h <;> rfl
theorem Completes.sweep : u.sweep = s.sweep := by cases h <;> rfl
theorem Completes.gate : u.gate = s.gate := by cases h <;> rfl

/-- A completing command leaves csr[2:0] (R25). -/
theorem Completes.csrLow : u.csr &&& 0x07#8 = s.csr &&& 0x07#8 := by
  cases h with
  | select m => exact csrMerge_low _ _
  | poll _ _ _ _ _ _ _ _ hcsr _ => exact hcsr
  | _ => rfl

end

/-! ## Fields after a command, whatever its end -/

section
variable {s t : State} {i : Instr} (h : exec i s = .next t)
include h

theorem exec_cfg : t.cfg = s.cfg := by
  cases exec_outcome h with
  | completed hu => exact hu.cfg
  | _ => rfl

theorem exec_stream : t.stream = s.stream := by
  cases exec_outcome h with
  | completed hu => exact hu.stream
  | _ => rfl

theorem exec_gate : t.gate = s.gate := by
  cases exec_outcome h with
  | completed hu => exact hu.gate
  | _ => rfl

/-- No command changes csr[2:0] (R25). -/
theorem exec_csrLow : t.csr &&& 0x07#8 = s.csr &&& 0x07#8 := by
  cases exec_outcome h with
  | completed hu => exact hu.csrLow
  | configured => exact csrMerge_low _ _
  | _ => rfl

end

/-- Where the block goes on after a command (R37, R223, R302): at a fault cp stays, at an end outside a sweep cp is past the
command, and a sweep's command takes the FSM to Configured with cp still at its header. -/
inductive Control (i : Instr) (s t : State) : Prop
  | faulted (hf : t.fault ≠ none) (hs : t.sweep = s.sweep) (hc : t.cp = s.cp)
  | advanced (hf : t.fault = s.fault) (hs : t.sweep = s.sweep) (hc : t.cp = s.cp + (encode i).length)
  | configured (ctx : SweepCtx) (hi : sweepCtxOf i = some ctx) (hf : t.fault = s.fault) (hs : t.sweep = .configured ctx)
    (hc : t.cp = s.cp)

theorem exec_control {i : Instr} {s t : State} (h : exec i s = .next t) : Control i s t := by
  have hlen : ∀ n, n + 1 + i.operandCount = n + (encode i).length := fun n => by rw [encode_length]; omega
  cases exec_outcome h with
  | raised k => exact .faulted (by simp) rfl rfl
  | reported => exact .advanced rfl rfl (hlen _)
  | configured hc => exact .configured _ hc rfl rfl rfl
  | completed hu => exact .advanced hu.fault hu.sweep (by rw [State.complete_cp, hu.cp, hlen])

/-- A sweep's command has seven words (R105, R106). -/
theorem encode_length_of_sweepCtxOf {i : Instr} {ctx : SweepCtx} (h : sweepCtxOf i = some ctx) : (encode i).length = 7 := by
  rw [encode_length]
  cases i with
  | swpf | swpp | swpa => rfl
  | _ => exact nomatch h

/-- Settles O14: every end of a command says where cp is. -/
theorem commandPointerAdvances : Obligations.CommandPointerAdvances := by
  refine ⟨fun i s t hf hs h ht => ?_, fun ctx s t hf hs h => ?_, fun ctx s t hf hs h => ?_⟩
  · cases exec_control h with
    | faulted hk => exact absurd ht hk
    | advanced _ hsw hc => exact ⟨fun _ => hc, fun hn => absurd (hsw.trans hs) hn⟩
    | configured ctx _ _ hsw hc => exact ⟨fun hn => (nomatch hsw.symm.trans hn), fun _ => hc⟩
  · simp only [step, hf, hs] at h
    cases h
    rfl
  · simp only [step, hf, hs] at h
    cases h
    rfl

/-- Settles O22: of a command's ends only the report sets INVALID_PARAMETER, and it is one record. -/
theorem onlyValidatedCommandsReport : Obligations.OnlyValidatedCommandsReport := by
  intro i s t hok h hbad
  cases exec_outcome h with
  | reported hv => exact ⟨hv, rfl⟩
  | raised | configured => exact nomatch hok.symm.trans hbad
  | completed => exact nomatch hbad

/-- Entry i of a channel's table stands i entries after entry 0 (R61). -/
theorem tableAddr_eq_add (c : Chan) (i : Nat) : tableAddr c i = tableAddr c 0 + i := by simp [tableAddr]

/-- After TLOAD's loop the channel's entry i is the list's. -/
theorem read_writeFrom_tableAddr (m : Memory) (c : Chan) {es : List Word} {i : Nat} (hi : i < es.length) :
    (m.writeFrom (tableAddr c 0) es).read (tableAddr c i) = es[i]? := by
  rw [tableAddr_eq_add c i, Memory.read_writeFrom, if_pos (by omega), Nat.add_sub_cancel_left]

/-- CURSOR_INIT written out (R33). -/
theorem cursorInitValue_eq (ci : Config.CursorInit) : cursorInitValue ci = if ci = .minusOne then -1 else 0 := by
  cases ci <;> rfl

/-- TLOAD of a legal length, as its state operations (R261). -/
theorem execTload_of_length {ch : Chan} {k : Kind} {es : List Word} {s : State} (h1 : 1 ≤ es.length)
    (h2 : es.length ≤ Config.tableMax) :
    execTload ch k es s = .next (((s.tableWrite ch es).setStepper ch
      { tlen := es.length, tkind := k, cursor := cursorInitValue s.cfg.cursorInit
        stepLatch := .armed, resetLatch := .armed }).complete es.length) := by
  rw [execTload, if_neg (by omega)]

/-- Settles O30: a read after TLOAD's loop gives the entries. -/
theorem tloadLoadsTable : Obligations.TloadLoadsTable := by
  intro ch k es s h1 h2
  refine ⟨s.mem.writeFrom (tableAddr ch 0) es, fun i hi => read_writeFrom_tableAddr _ _ hi, fun a ha => ?_, ?_⟩
  · rw [Memory.read_writeFrom, if_neg ha]
  · rw [← cursorInitValue_eq]
    exact execTload_of_length h1 h2

/-- The other channels of a polled state (R266). -/
theorem stepper_polled_ne (s : State) {c d : Chan} (u : Stepper) (csr : Byte) (lf : Option (Kind × Word))
    (es : List Event) (h : c ≠ d) : (polled s c u csr lf es).stepper d = s.stepper d :=
  State.stepper_setStepper_ne s c d u h

/-- Settles O36: each end of each command writes the fields that its record names. -/
theorem eachFieldHasItsWriters : Obligations.EachFieldHasItsWriters := by
  intro i s t h
  cases exec_outcome h with
  | raised | reported => simp
  | configured hc =>
    have hsetclk : ∀ hz, i ≠ .setclk hz := by rintro hz rfl; exact nomatch hc
    have htload : ∀ ch k es, i ≠ .tload ch k es := by rintro ch k es rfl; exact nomatch hc
    simp [configureSweep, hc, hsetclk, htload]
  | completed hu =>
    cases hu with
    | tload ch k es _ =>
      refine ⟨rfl, rfl, rfl, by simp, by simp, by simp, by simp, by simp, by simp, by simp, by simp, fun c => ?_, by simp⟩
      by_cases hc : ch = c
      · subst hc; simp
      · simp [State.stepper_setStepper_ne, hc]
    | poll ch a b u csr lf es hu hcsr hes =>
      refine ⟨rfl, rfl, rfl, by simp [polled], by simp [polled], by simp, by simp, by simp [polled], by simp [polled],
        by simp [polled], by simp, fun c => ?_, by simp⟩
      by_cases hc : ch = c
      · subst hc; simp [hu.tlen, hu.tkind]
      · simp [stepper_polled_ne, hc]
    | _ => simp

end Sys2Proof.Machine

/-! PROOFS. What every step keeps (R20, R25, R31 to R33, R35, R37, R39, R63): each part of the invariant as a step lemma. -/

namespace Sys2Proof.Machine

/-! ## csr[2:0] and the events -/

/-- A view of the block that no sweep step, no fault and no command changes is the same after every step. -/
theorem step_keeps {α : Type} (view : State → α) (hstart : ∀ ctx s, view (startSweep ctx s) = view s)
    (hfinish : ∀ ctx s, view (finishSweep ctx s) = view s) (hraise : ∀ k s, view (State.raise s k) = view s)
    (hexec : ∀ {i s t}, exec i s = .next t → view t = view s) {s t : State} (h : step s = .next t) : view t = view s := by
  obtain ⟨-, ⟨ctx, -, rfl⟩ | ⟨ctx, -, rfl⟩ | ⟨k, -, -, rfl⟩ | ⟨i, -, -, he⟩⟩ := step_next h
  · exact hstart ctx s
  · exact hfinish ctx s
  · exact hraise k s
  · exact hexec he

theorem step_cfg {s t : State} (h : step s = .next t) : t.cfg = s.cfg :=
  step_keeps State.cfg (by simp [startSweep]) (by simp [finishSweep]) (by simp) exec_cfg h

theorem step_stream {s t : State} (h : step s = .next t) : t.stream = s.stream :=
  step_keeps State.stream (by simp [startSweep]) (by simp [finishSweep]) (by simp) exec_stream h

/-- Settles O40: only the csr merge writes csr, and it keeps these bits. -/
theorem stepKeepsCsrLowBits : Obligations.StepKeepsCsrLowBits := fun _ _ =>
  step_keeps (fun s => s.csr &&& 0x07#8) (by simp [startSweep]) (by simp [finishSweep]) (by simp) exec_csrLow

/-- `t` has the events `es` after those of `s`, the observer has seen them, and they are legal in a legal configuration
(R35, R63, R70). -/
structure Emits (es : List Event) (s t : State) : Prop where
  trace : t.trace = s.trace ++ es
  chip : t.chip = s.chip.observeAll s.cfg.csrBuffered es
  legal : s.cfg.legal → ∀ e ∈ es, e.legal = true

/-- A state with the same trace and the same observer emits nothing. -/
theorem Emits.nil {s t : State} (ht : t.trace = s.trace) (hc : t.chip = s.chip) : Emits [] s t :=
  ⟨by simp [ht], by simp [hc], by simp⟩

/-- A frame that fills its register is legal (R63). -/
theorem frame_legal {addr : Byte} {payload : List Byte} {n : Nat} (hl : payload.length = n) (ha : regWidth addr = some n) :
    (Event.frame addr payload).legal = true := by
  simp [Event.legal, ha, hl]

/-- The events of a configured sweep are legal (R62, R223). -/
theorem sweepFrames_legal (cfg : Config.Params) (kind : SweepKind) (p : SweepOps) {w : SweepWords} (hw : w.Fits) :
    ∀ e ∈ sweepFrames cfg kind p w, e.legal = true := by
  simp only [sweepFrames, List.forall_mem_cons]
  exact ⟨rfl, hw.start, frame_legal hw.stop rfl, frame_legal hw.rise rfl, frame_legal hw.fall rfl, rfl, by simp⟩

/-- The events of a completing command (R356). -/
theorem Completes.emits {s u : State} {i : Instr} (h : Completes s i u) : ∃ es, Emits es s u := by
  cases h with
  | setclk | tload => exact ⟨[], .nil rfl rfl⟩
  | init v x =>
    refine ⟨_, rfl, rfl, fun hl => ?_⟩
    simp only [List.forall_mem_cons]
    exact ⟨decide_eq_true hl, rfl, rfl, by simp⟩
  | poll ch a b u csr lf es hu hcsr hes => exact ⟨es, rfl, rfl, fun _ => hes⟩
  | select | setf | setp | seta | commit => exact ⟨_, rfl, rfl, fun _ => List.all_eq_true.1 rfl⟩

/-- The events of any command's own step. -/
theorem exec_emits {s t : State} {i : Instr} (h : exec i s = .next t) : ∃ es, Emits es s t := by
  cases exec_outcome h with
  | raised | reported => exact ⟨[], .nil rfl rfl⟩
  | completed hu =>
    obtain ⟨es, ht, hc, hl⟩ := hu.emits
    exact ⟨es, ht, hc, hl⟩
  | @configured kind ch p w _ hw =>
    rw [configureSweep_eq]
    refine ⟨_, rfl, rfl, fun _ e he => ?_⟩
    rcases List.mem_cons.1 he with rfl | he
    · rfl
    · exact sweepFrames_legal s.cfg kind p hw e he

/-- The events of a step: legal, and shown to the observer, what a zero hold leaves of it aside (D62). -/
theorem step_emits {s t : State} (h : step s = .next t) :
    ∃ es, t.trace = s.trace ++ es ∧ (s.cfg.legal → ∀ e ∈ es, e.legal = true) ∧
      (t.chip = s.chip.observeAll s.cfg.csrBuffered es ∨
        ∃ (ctx : SweepCtx) (v : Nat), s.sweep = .running ctx ∧ ctx.hold = 0#32 ∧
          t.chip = { (s.chip.observeAll s.cfg.csrBuffered es).setSwept ctx.kind ctx.ch v with
            nextDraw := t.chip.nextDraw }) := by
  obtain ⟨-, ⟨ctx, -, rfl⟩ | ⟨ctx, hr, rfl⟩ | ⟨k, -, -, rfl⟩ | ⟨i, -, -, he⟩⟩ := step_next h
  · rw [startSweep_eq]
    exact ⟨_, rfl, fun _ => List.all_eq_true.1 rfl, .inl rfl⟩
  · rw [finishSweep_eq]
    refine ⟨_, rfl, fun _ => List.all_eq_true.1 rfl, ?_⟩
    rw [Chip.observeAll_delay_gate]
    by_cases h0 : ctx.hold = 0#32
    · obtain ⟨v, hv⟩ := s.chip.zeroDwell_eq ctx.kind ctx.ch
      exact .inr ⟨ctx, v, hr, h0, by simp only [if_pos h0, hv]⟩
    · exact .inl (if_neg h0)
  · exact ⟨[], by simp⟩
  · obtain ⟨es, ht, hc, hl⟩ := exec_emits he
    exact ⟨es, ht, hl, .inl hc⟩

/-- Settles O38: the events of each kind of step. -/
theorem stepAppendsToTrace : Obligations.StepAppendsToTrace := by
  intro s t h
  obtain ⟨es, htrace, -, hchip⟩ := step_emits h
  exact ⟨step_cfg h, step_stream h, es, htrace, hchip⟩

/-- Every step keeps the trace legal (R63, R64). -/
theorem step_traceLegal {s t : State} (hs : TraceLegal s) (h : step s = .next t) : TraceLegal t := by
  obtain ⟨hcfg, hold⟩ := hs
  obtain ⟨es, htrace, hnew, -⟩ := step_emits h
  rw [TraceLegal, step_cfg h, htrace]
  exact ⟨hcfg, List.forall_mem_append.2 ⟨hold, hnew hcfg⟩⟩

/-! ## Gates -/

/-- Settles O42: only the sweep's second and third step drive a gate line, and they set `sweep` with it. -/
theorem stepKeepsGatesWithSweep : Obligations.StepKeepsGatesWithSweep := by
  intro s t hg h c
  have hgc := hg c
  obtain ⟨-, ⟨ctx, hs, rfl⟩ | ⟨ctx, hs, rfl⟩ | ⟨k, -, -, rfl⟩ | ⟨i, hs, -, he⟩⟩ := step_next h
  · rw [hs] at hgc
    simp [startSweep_eq, Vector.getElem_set, gateWanted, Fin.ext_iff, hgc]
  · rw [hs] at hgc
    simp only [finishSweep_eq, Vector.getElem_set, hgc, gateWanted, Fin.ext_iff]
    split <;> rfl
  · exact hgc
  · simp only [exec_gate he, hgc, hs]
    cases exec_control he with
    | faulted _ hsw | advanced _ hsw => rw [hsw, hs]
    | configured ctx _ _ hsw => rw [hsw]; rfl

/-! ## Tables and cursors -/

/-- The stepper's condition is about its table and its stepper state alone. -/
theorem StepperOk.congr {s t : State} {c : Chan} (ht : t.stepper c = s.stepper c) (hm : t.mem = s.mem)
    (h : StepperOk s c) : StepperOk t c := by
  rw [StepperOk, ht]
  simpa only [StepperOk, State.tableRead, hm] using h

/-- POLL's moves keep the cursor inside the ranges (R33, R263, R264). -/
theorem StepperOk.polled {s : State} {c : Chan} {u : Stepper} (h : StepperOk s c) (hu : PollMoves (s.stepper c) u)
    (csr : Byte) (lf : Option (Kind × Word)) (es : List Event) : StepperOk (Machine.polled s c u csr lf es) c := by
  obtain ⟨hlen, hlo, hhi, hin, hread⟩ := h
  obtain ⟨hpos, htlen, -, hcur⟩ := hu
  have hin := hin hpos
  rw [StepperOk, stepper_polled_self, htlen]
  unfold Config.tableMax at hlen ⊢
  exact ⟨hlen, by omega, by omega, fun _ => by omega, hread⟩

/-- The entries below a list's length are readable after TLOAD's loop. -/
theorem tableRead_tableWrite_self (s : State) (c : Chan) (es : List Word) {i : Nat} (hi : i < es.length) :
    (s.tableWrite c es).tableRead c i = some es[i] := by
  rw [State.tableRead, State.tableWrite_mem, read_writeFrom_tableAddr _ _ hi, List.getElem?_eq_getElem hi]

/-- TLOAD's loop leaves the tables of the other channels (R32). -/
theorem tableRead_tableWrite_ne (s : State) {c d : Chan} {es : List Word} {i : Nat} (hcd : c ≠ d)
    (hes : es.length ≤ Config.tableMax) (hi : i < Config.tableMax) :
    (s.tableWrite c es).tableRead d i = s.tableRead d i := by
  have hout : ¬(tableAddr c 0 ≤ tableAddr d i ∧ tableAddr d i < tableAddr c 0 + es.length) := by
    have hv : c.val ≠ d.val := fun e => hcd (Fin.ext e)
    unfold tableAddr Config.tableMax at *
    omega
  rw [State.tableRead, State.tableWrite_mem, Memory.read_writeFrom, if_neg hout, State.tableRead]

/-- CURSOR_INIT is before or at entry 0 (R33). -/
theorem cursorInitValue_bounds (ci : Config.CursorInit) : -1 ≤ cursorInitValue ci ∧ cursorInitValue ci ≤ 0 := by
  cases ci <;> decide

/-- A completing command keeps every channel's stepper state in range. -/
theorem Completes.stepperOk {s u : State} {i : Instr} (hu : Completes s i u) (h : ∀ c, StepperOk s c) (c : Chan) :
    StepperOk u c := by
  cases hu with
  | tload ch k es hes =>
    by_cases hc : ch = c
    · subst hc
      obtain ⟨hlo, hhi⟩ := cursorInitValue_bounds s.cfg.cursorInit
      rw [StepperOk, State.stepper_setStepper_self]
      refine ⟨hes.2, hlo, by dsimp only; omega, fun _ => by dsimp only; omega, fun i hi => ?_⟩
      rw [State.tableRead_setStepper, tableRead_tableWrite_self s ch es hi]
      rfl
    · obtain ⟨hlen, hlo, hhi, hin, hread⟩ := h c
      rw [StepperOk, State.stepper_setStepper_ne _ _ _ _ hc, State.stepper_tableWrite]
      refine ⟨hlen, hlo, hhi, hin, fun i hi => ?_⟩
      rw [State.tableRead_setStepper, tableRead_tableWrite_ne s hc hes.2 (hi.trans_le hlen)]
      exact hread i hi
  | poll ch a b u csr lf es hu hcsr hes =>
    by_cases hc : ch = c
    · subst hc; exact (h ch).polled hu csr lf es
    · exact (h c).congr (stepper_polled_ne _ _ _ _ _ hc) rfl
  | _ => exact (h c).congr rfl rfl

/-- Settles O41: of a command's ends only completion reaches a table or a cursor. -/
theorem stepKeepsCursorsInTables : Obligations.StepKeepsCursorsInTables := by
  intro s t hok h c
  obtain ⟨-, ⟨ctx, -, rfl⟩ | ⟨ctx, -, rfl⟩ | ⟨k, -, -, rfl⟩ | ⟨i, -, -, he⟩⟩ := step_next h
  · exact (hok c).congr (by simp [startSweep]) (by simp [startSweep])
  · exact (hok c).congr (by simp [finishSweep]) (by simp [finishSweep])
  · exact (hok c).congr rfl rfl
  · cases exec_outcome he with
    | completed hu => exact (hu.stepperOk hok c).congr rfl rfl
    | configured | raised | reported => exact (hok c).congr rfl rfl

/-! ## The table memory -/

/-- Every step keeps the memory's canonical form (R61). -/
theorem step_memory_wf {s t : State} (hm : s.mem.wf) (h : step s = .next t) : t.mem.wf := by
  obtain ⟨-, ⟨ctx, -, rfl⟩ | ⟨ctx, -, rfl⟩ | ⟨k, -, -, rfl⟩ | ⟨i, -, -, he⟩⟩ := step_next h
  · simpa [startSweep] using hm
  · simpa [finishSweep] using hm
  · exact hm
  · cases exec_outcome he with
    | raised | reported | configured => exact hm
    | completed hu =>
      cases hu with
      | tload ch k es hes =>
        refine Memory.writeFrom_wf hm ?_
        have := tableAddr_lt ch (es.length - 1) (by omega)
        unfold tableAddr at *
        omega
      | _ => exact hm

end Sys2Proof.Machine

/-! PROOFS. The command pointer and the whole invariant (R37, R39, R67, R316): kept by every step and every host move, held at
reset; what the host can do (R316, R330). -/

namespace Sys2Proof.Machine

/-! ## cp on the headers -/

/-- Past a command that stands at a header there is a header, or the stream's end (R37). -/
theorem OnHeader.advance {s t : State} {i : Instr} (h : OnHeader s) (hi : s.fetch = .ok i) (hs : t.stream = s.stream)
    (hc : t.cp = s.cp + (encode i).length) : OnHeader t := by
  obtain ⟨hle, is, hwf, htake⟩ := h
  obtain ⟨hiwf, hlen⟩ := decode_ok_wf hi
  have hwords : s.stream.drop s.cp = encode i ++ _ := eq_encode_append_of_decode hi
  rw [List.length_drop, ← encode_length] at hlen
  rw [OnHeader, hs, hc]
  refine ⟨by omega, is ++ [i], fun j hj => ?_, ?_⟩
  · rcases List.mem_append.1 hj with hj | hj
    · exact hwf j hj
    · rwa [List.mem_singleton.1 hj]
  · rw [List.take_add, htake, hwords, List.take_left, List.flatMap_append, List.flatMap_singleton]

/-- cp and the words before it decide whether cp is on a header. -/
theorem OnHeader.congr {s t : State} (hs : t.stream = s.stream) (hc : t.cp = s.cp) (h : OnHeader s) : OnHeader t := by
  rwa [OnHeader, hs, hc]

/-- The command fetched depends on the stream and cp alone. -/
theorem State.fetch_congr {s t : State} (hs : t.stream = s.stream) (hc : t.cp = s.cp) : t.fetch = s.fetch := by
  rw [State.fetch, hs, hc, State.fetch]

/-- No sweep is under way, so no header is asked for. -/
theorem SweepAtHeader.of_idle {s : State} (h : s.sweep = .idle) : SweepAtHeader s := by
  rw [SweepAtHeader, h]
  trivial

/-- Settles O44: the words of the command at cp are its encoding, so that cp past them is on a header again. -/
theorem stepKeepsCommandPointerOnHeaders : Obligations.StepKeepsCommandPointerOnHeaders := by
  intro s t hon hat h
  obtain ⟨-, ⟨ctx, hsw, rfl⟩ | ⟨ctx, hsw, rfl⟩ | ⟨k, hsw, -, rfl⟩ | ⟨i, hsw, hi, he⟩⟩ := step_next h
  · rw [SweepAtHeader, hsw] at hat
    rw [startSweep_eq]
    exact ⟨hon, hat⟩
  · rw [SweepAtHeader, hsw] at hat
    obtain ⟨i, hi, hctx⟩ := hat
    rw [finishSweep_eq]
    exact ⟨hon.advance hi rfl (by rw [encode_length_of_sweepCtxOf hctx]), .of_idle rfl⟩
  · exact ⟨hon, .of_idle hsw⟩
  · have hstream := exec_stream he
    cases exec_control he with
    | faulted _ hs hc => exact ⟨hon.congr hstream hc, .of_idle (hs.trans hsw)⟩
    | advanced _ hs hc => exact ⟨hon.advance hi hstream hc, .of_idle (hs.trans hsw)⟩
    | configured ctx hctx _ hs hc =>
      refine ⟨hon.congr hstream hc, ?_⟩
      rw [SweepAtHeader, hs]
      exact ⟨i, (State.fetch_congr hstream hc).trans hi, hctx⟩

/-! ## The invariant -/

/-- A fault is recorded only by a step that starts outside a sweep and enters none (R304). -/
theorem step_faultOutsideSweep {s t : State} (h : step s = .next t) : FaultOutsideSweep t := by
  obtain ⟨hf, ⟨ctx, -, rfl⟩ | ⟨ctx, -, rfl⟩ | ⟨k, hsw, -, rfl⟩ | ⟨i, hsw, -, he⟩⟩ := step_next h
  · exact .inl (by simp [startSweep, hf])
  · exact .inl (by simp [finishSweep, hf])
  · exact .inr hsw
  · cases exec_control he with
    | faulted _ hs => exact .inr (hs.trans hsw)
    | advanced hft | configured _ _ hft => exact .inl (hft.trans hf)

/-- Every step keeps the invariant (R39). -/
theorem Inv.step {s t : State} (hs : Inv s) (h : step s = .next t) : Inv t :=
  have hheader := stepKeepsCommandPointerOnHeaders s t hs.onHeader hs.sweepAtHeader h
  { memory := step_memory_wf hs.memory h
    steppers := stepKeepsCursorsInTables s t hs.steppers h
    gates := stepKeepsGatesWithSweep s t hs.gates h
    csrLow := by
      rw [CsrLowKept, stepKeepsCsrLowBits s t h, step_cfg h]
      exact hs.csrLow
    trace := step_traceLegal hs.trace h
    onHeader := hheader.1
    sweepAtHeader := hheader.2
    faultOutsideSweep := step_faultOutsideSweep h }

/-- A sweep under way stays at its command where the command fetched stays. -/
theorem SweepAtHeader.of_fetch {s t : State} (hs : t.sweep = s.sweep)
    (hf : ∀ i, s.fetch = .ok i → t.fetch = .ok i) (h : SweepAtHeader s) : SweepAtHeader t := by
  rw [SweepAtHeader] at h ⊢
  rw [hs]
  cases hsw : s.sweep with
  | idle => trivial
  | configured | running =>
    rw [hsw] at h
    obtain ⟨i, hi, hctx⟩ := h
    exact ⟨i, hf i hi, hctx⟩

/-- More words after the stream change neither where cp is nor the command there. -/
theorem Inv.hostAppend {s : State} (hs : Inv s) (ws : List Word) : Inv (hostAppend ws s) where
  memory := hs.memory
  steppers := hs.steppers
  gates := hs.gates
  csrLow := hs.csrLow
  trace := hs.trace
  onHeader := by
    obtain ⟨hle, is, hwf, htake⟩ := hs.onHeader
    refine ⟨hle.trans (by simp [Machine.hostAppend]), is, hwf, ?_⟩
    exact (List.take_append_of_le_length hle).trans htake
  sweepAtHeader := by
    refine SweepAtHeader.of_fetch (s := s) rfl (fun i hi => ?_) hs.sweepAtHeader
    have := decode_append ws hi
    rwa [← List.drop_append_of_le_length hs.onHeader.1] at this
  faultOutsideSweep := hs.faultOutsideSweep

@[simp] theorem stepper_resetOf (cfg : Config.Params) (c : Chan) : (State.resetOf cfg).stepper c = Stepper.reset cfg := by
  fin_cases c <;> rfl

@[simp] theorem gate_resetOf (cfg : Config.Params) (c : Chan) : (State.resetOf cfg).gate[c.val] = .low := by
  fin_cases c <;> rfl

/-- An unconfigured stepper channel is in range. -/
theorem stepperOk_resetOf (cfg : Config.Params) (c : Chan) : StepperOk (State.resetOf cfg) c := by
  rw [StepperOk, stepper_resetOf]
  cases h : cfg.cursorInit <;> simp [Stepper.reset, cursorInitValue, h]

/-- A block at its reset values has the invariant, whatever its stream and the observer's registers. -/
theorem inv_of_reset {cfg : Config.Params} (h : cfg.legal) (ws : List Word) (chip : Chip) :
    Inv { State.resetOf cfg with stream := ws, chip := chip } where
  memory := Memory.wf_nil
  steppers c := (stepperOk_resetOf cfg c).congr rfl rfl
  gates c := gate_resetOf cfg c
  csrLow := rfl
  trace := ⟨h, by simp [State.resetOf]⟩
  onHeader := ⟨Nat.zero_le _, [], by simp, rfl⟩
  sweepAtHeader := trivial
  faultOutsideSweep := .inr rfl

/-- Settles O45: each part of the invariant has its step lemma, and each host move its own lemma. -/
theorem stepKeepsInvariant : Obligations.StepKeepsInvariant := by
  refine ⟨fun s t hs h => hs.step h, fun s t m hs h => ?_⟩
  cases m with
  | append ws => cases h; exact hs.hostAppend ws
  | appendBytes bs =>
    simp only [hostMove] at h
    split at h
    · cases h; exact hs.hostAppend _
    · exact nomatch h
  | blockReset ws =>
    simp only [hostMove] at h
    split at h
    · cases h; exact inv_of_reset hs.trace.1 ws _
    · exact nomatch h

/-- Settles O46: reset states are blocks at their reset values. -/
theorem invariantHoldsAtReset : Obligations.InvariantHoldsAtReset :=
  ⟨inv_of_reset (by decide) [] _, fun cfg ws h => inv_of_reset h ([] ++ ws) _⟩

/-! ## The host's moves -/

/-- Settles O47: block reset answers the reset values. -/
theorem blockResetGivesResetValues : Obligations.BlockResetGivesResetValues := by
  refine ⟨fun s ws hs => ⟨hostReset ws s, by simp [hostMove, hs], ?_⟩, rfl, fun c => ?_⟩
  · refine ⟨rfl, rfl, rfl, rfl, rfl, rfl, rfl, rfl, rfl, rfl, gate_resetOf s.cfg, fun c i => rfl, fun c => ?_, rfl⟩
    rw [← cursorInitValue_eq]
    exact stepper_resetOf s.cfg c
  · rw [State.reset, stepper_resetOf]
    rfl

/-- What the host reads of channel c's table (R32). -/
theorem table_hostView (s : State) (c : Chan) : s.hostView.table[c.val] = s.tableEntries c := by
  fin_cases c <;> rfl

/-- The view of the host does not show the observer (R60). -/
theorem hostView_chip (s : State) (chip : Chip) : ({ s with chip := chip } : State).hostView = s.hostView := rfl

/-- Settles O48: a read and a block reset ask for no sweep, and the view has the fields of R20 alone. -/
theorem hostMovesAreLimited : Obligations.HostMovesAreLimited := by
  intro s
  refine ⟨fun hs => ?_, fun hs => ?_, fun chip => ?_, fun t ws ht => ?_, fun ws => rfl⟩
  · simp [hostRead, hostMove, hs]
  · refine ⟨s.hostView, if_pos hs, rfl, rfl, rfl, rfl, rfl, rfl, rfl, rfl, hs, rfl, rfl, rfl, fun c => ?_⟩
    rw [table_hostView]
    exact ⟨by simp [State.tableEntries], fun j hj => by simp [State.tableEntries, hj]⟩
  · rw [hostRead, hostView_chip, hostRead]
  · simp only [hostMove] at ht
    split at ht
    · cases ht; exact ⟨rfl, rfl⟩
    · exact nomatch ht

/-- Settles O10: `step` asks for the fault first, and a final state has no fault and no sweep. -/
theorem faultedBlockTakesNoStep : Obligations.FaultedBlockTakesNoStep := by
  intro s
  have hfinal : s.final = true ↔ s.fault = none ∧ s.sweep = .idle ∧ s.cp = s.stream.length := by simp [State.final]
  refine ⟨fun k hk => by simp [step, hk], hfinal, fun hfin => ?_⟩
  obtain ⟨hf, hs, -⟩ := hfinal.1 hfin
  simp [step, hf, hs, hfin]

end Sys2Proof.Machine

/-! PROOFS. The end of a run (R37, R229, R317): a bound on the steps left that every step lowers, and what a stop can be. -/

namespace Sys2Proof.Machine

/-! ## Which steps answer a next state -/

/-- A step sample of a channel in range is taken, where the conversion of what it fires has a value (R262). -/
theorem stepAutomaton_isSome {c : Chan} {l : Level} {s : State} (h : StepperOk s c)
    (hc : stepFires (s.stepper c) l = true → (s.stepper c).tkind = .raw ∨ s.clk.toNat ≠ 0) :
    ∃ t, stepAutomaton c l s = some t := by
  cases hf : stepFires (s.stepper c) l with
  | false => exact ⟨_, stepAutomaton_quiet hf⟩
  | true =>
    obtain ⟨-, hlo, -, -, hread⟩ := h
    have hcur := cursor_lt_of_stepFires hf
    obtain ⟨t, ht⟩ := programAction_isSome (c := c) (i := ((s.stepper c).cursor + 1).toNat)
      (s := s.setStepper c { s.stepper c with cursor := (s.stepper c).cursor + 1 })
      (hread _ (by omega)) (by simpa using hc hf)
    exact ⟨_, by rw [stepAutomaton_fires hf, ht, Option.map_some]⟩

/-- A reset sample of a channel whose entry 0 is written is taken, where the conversion of what it fires has a value. -/
theorem resetAutomaton_isSome {c : Chan} {l : Level} {s : State} (h : (s.tableRead c 0).isSome = true)
    (hc : resetFires (s.stepper c) l = true → (s.stepper c).tkind = .raw ∨ s.clk.toNat ≠ 0) :
    ∃ t, resetAutomaton c l s = some t := by
  cases hf : resetFires (s.stepper c) l with
  | false => exact ⟨_, resetAutomaton_quiet hf⟩
  | true =>
    obtain ⟨t, ht⟩ := programAction_isSome (c := c) (i := 0) (s := s.setStepper c { s.stepper c with cursor := 0 })
      h (by simpa using hc hf)
    exact ⟨_, by rw [resetAutomaton_fires hf, ht, Option.map_some]⟩

/-- The step automaton leaves what the reset automaton asks for: the clock, the kind, the reset latch and the table. -/
theorem stepAutomaton_keeps {c : Chan} {l : Level} {s t : State} (h : stepAutomaton c l s = some t) :
    t.clk = s.clk ∧ (t.stepper c).tkind = (s.stepper c).tkind ∧ (t.stepper c).resetLatch = (s.stepper c).resetLatch ∧
      t.tableRead c 0 = s.tableRead c 0 := by
  obtain ⟨csr, lf, es, -, -, rfl⟩ := (stepAutomaton_effect h).polled
  exact ⟨rfl, by simp, by simp, rfl⟩

/-- POLL of a channel in range answers a next state (R262, R265). -/
theorem execPoll_isNext {c : Chan} {a b : Level} {s : State} (h : StepperOk s c) : ∃ t, execPoll c a b s = .next t := by
  by_cases h0 : (s.stepper c).tlen = 0
  · exact ⟨_, by rw [execPoll, if_pos h0]; rfl⟩
  by_cases hz : (stepFires (s.stepper c) a || resetFires (s.stepper c) b) = true ∧
      ((s.stepper c).tkind = .domain ∧ s.clk = 0#64)
  · have : ((stepFires (s.stepper c) a || resetFires (s.stepper c) b) &&
        decide ((s.stepper c).tkind = .domain ∧ s.clk = 0#64)) = true := by simpa using hz
    exact ⟨_, by rw [execPoll, if_neg h0, if_pos this]; rfl⟩
  have hconv : (stepFires (s.stepper c) a || resetFires (s.stepper c) b) = true →
      (s.stepper c).tkind = .raw ∨ s.clk.toNat ≠ 0 := by
    intro hf
    rw [Ne, clk_toNat_eq_zero]
    cases hk : (s.stepper c).tkind with
    | raw => exact .inl rfl
    | domain => exact .inr fun hclk => hz ⟨hf, hk, hclk⟩
  obtain ⟨s1, h1⟩ := stepAutomaton_isSome (l := a) h fun hf => hconv (by rw [hf, Bool.true_or])
  obtain ⟨hclk, hkind, hlatch, htable⟩ := stepAutomaton_keeps h1
  have hread0 : (s.tableRead c 0).isSome = true := by
    obtain ⟨-, -, -, -, hread⟩ := h
    exact hread 0 (Nat.pos_of_ne_zero h0)
  obtain ⟨s2, h2⟩ := resetAutomaton_isSome (c := c) (l := b) (s := s1) (by rwa [htable]) fun hf => by
    rw [hkind, hclk]
    refine hconv ?_
    rw [resetFires, hlatch] at hf
    rw [resetFires, hf, Bool.or_true]
  exact ⟨_, execPoll_run (Nat.pos_of_ne_zero h0) (fun hf hd => hz ⟨hf, hd⟩) h1 h2⟩

/-- Whatever POLL does not answer a next state for is a read of an entry that nothing has written. -/
theorem execPoll_next_or_unwritten (c : Chan) (a b : Level) (s : State) :
    (∃ t, execPoll c a b s = .next t) ∨ execPoll c a b s = .fault .tableEntryUnwritten := by
  simp only [execPoll]
  split
  · exact .inl ⟨_, rfl⟩
  · split
    · exact .inl ⟨_, rfl⟩
    · split
      · exact .inr rfl
      · exact .inl ⟨_, rfl⟩

/-- A command but POLL always answers a next state. -/
theorem exec_isNext {i : Instr} (hi : ∀ c a b, i ≠ .poll c a b) (s : State) : ∃ t, exec i s = .next t := by
  cases i with
  | poll c a b => exact absurd rfl (hi c a b)
  | setclk | select | setp | commit | swpp => exact ⟨_, rfl⟩
  | init => simp only [exec, execInit]; split <;> exact ⟨_, rfl⟩
  | seta => simp only [exec, execSeta]; split <;> exact ⟨_, rfl⟩
  | swpa => simp only [exec, execSwpa]; split <;> exact ⟨_, rfl⟩
  | tload => simp only [exec, execTload]; split <;> exact ⟨_, rfl⟩
  | setf =>
    simp only [exec, execSetf]
    split
    · exact ⟨_, rfl⟩
    · split <;> exact ⟨_, rfl⟩
  | swpf =>
    simp only [exec, execSwpf]
    split
    · exact ⟨_, rfl⟩
    · split <;> exact ⟨_, rfl⟩

/-- A step answers a next state, or stops; in a block with the invariant only faulted and at the end of the stream. -/
theorem step_next_or_stop (s : State) :
    (∃ t, step s = .next t) ∨
      ∃ r, step s = .fault r ∧ (Inv s → r = .endOfStream ∨ ∃ f : FaultKind, r = .halted f) := by
  unfold step
  split
  · next k _ => exact .inr ⟨_, rfl, fun _ => .inr ⟨k, rfl⟩⟩
  · split
    · exact .inl ⟨_, rfl⟩
    · exact .inl ⟨_, rfl⟩
    · split
      · exact .inr ⟨_, rfl, fun _ => .inl rfl⟩
      · split
        · exact .inl ⟨_, rfl⟩
        · next i _ =>
          by_cases hi : ∃ c a b, i = .poll c a b
          · obtain ⟨c, a, b, rfl⟩ := hi
            rcases execPoll_next_or_unwritten c a b s with hn | hu
            · exact .inl hn
            · refine .inr ⟨_, hu, fun hinv => ?_⟩
              obtain ⟨t, ht⟩ := execPoll_isNext (a := a) (b := b) (hinv.steppers c)
              exact nomatch hu.symm.trans ht
          · exact .inl (exec_isNext (fun c a b h => hi ⟨c, a, b, h⟩) s)

/-! ## The steps left -/

/-- A bound on the steps before the stop: three for each word left, less where a sweep is under way, whose seven words are then
as good as done, and none in a faulted block. -/
def stepsLeft (s : State) : Nat :=
  match s.fault, s.sweep with
  | some _, _ => 0
  | none, .idle => 3 * (s.stream.length - s.cp) + 1
  | none, .configured _ => 3 * (s.stream.length - (s.cp + 7)) + 3
  | none, .running _ => 3 * (s.stream.length - (s.cp + 7)) + 2

theorem stepsLeft_idle {s : State} (hf : s.fault = none) (hs : s.sweep = .idle) :
    stepsLeft s = 3 * (s.stream.length - s.cp) + 1 := by
  simp only [stepsLeft, hf, hs]

theorem stepsLeft_configured {s : State} {ctx : SweepCtx} (hf : s.fault = none) (hs : s.sweep = .configured ctx) :
    stepsLeft s = 3 * (s.stream.length - (s.cp + 7)) + 3 := by
  simp only [stepsLeft, hf, hs]

theorem stepsLeft_running {s : State} {ctx : SweepCtx} (hf : s.fault = none) (hs : s.sweep = .running ctx) :
    stepsLeft s = 3 * (s.stream.length - (s.cp + 7)) + 2 := by
  simp only [stepsLeft, hf, hs]

theorem stepsLeft_faulted {s : State} (hf : s.fault ≠ none) : stepsLeft s = 0 := by
  obtain ⟨k, hk⟩ := Option.ne_none_iff_exists'.1 hf
  simp only [stepsLeft, hk]

theorem stepsLeft_le (s : State) : stepsLeft s + 1 ≤ 3 * (s.stream.length - s.cp) + 4 := by
  unfold stepsLeft
  split <;> omega

/-- Every step lowers the steps left. -/
theorem step_stepsLeft_lt {s t : State} (h : step s = .next t) : stepsLeft t < stepsLeft s := by
  obtain ⟨hf, ⟨ctx, hsw, rfl⟩ | ⟨ctx, hsw, rfl⟩ | ⟨k, hsw, -, rfl⟩ | ⟨i, hsw, hi, he⟩⟩ := step_next h
  · have ht : stepsLeft (startSweep ctx s) = 3 * (s.stream.length - (s.cp + 7)) + 2 := by
      rw [startSweep_eq]
      exact stepsLeft_running hf rfl
    rw [stepsLeft_configured hf hsw, ht]
    omega
  · have ht : stepsLeft (finishSweep ctx s) = 3 * (s.stream.length - (s.cp + 7)) + 1 := by
      rw [finishSweep_eq]
      exact stepsLeft_idle hf rfl
    rw [stepsLeft_running hf hsw, ht]
    omega
  · rw [stepsLeft_idle hf hsw, stepsLeft_faulted (by simp)]
    omega
  · have hlen := (decode_ok_wf hi).2
    rw [List.length_drop, ← encode_length] at hlen
    rw [stepsLeft_idle hf hsw, ← exec_stream he]
    rw [← exec_stream he] at hlen
    cases exec_control he with
    | faulted hk => rw [stepsLeft_faulted hk]; omega
    | advanced hft hs hc =>
      rw [stepsLeft_idle (hft.trans hf) (hs.trans hsw), hc]
      have := encode_length i
      omega
    | configured ctx hctx hft hs hc =>
      rw [stepsLeft_configured (hft.trans hf) hs, hc]
      have := encode_length_of_sweepCtxOf hctx
      omega

/-- Every run stops within its steps left and one more, which is the stop. -/
theorem run_stops (n : Nat) (s : State) (h : stepsLeft s < n) :
    ∃ k r, k ≤ n ∧ runSteps k s = .fault r ∧ (Inv s → r = .endOfStream ∨ ∃ f : FaultKind, r = .halted f) := by
  induction n generalizing s with
  | zero => exact absurd h (Nat.not_lt_zero _)
  | succ n ih =>
    rcases step_next_or_stop s with ⟨t, ht⟩ | ⟨r, hr, hinv⟩
    · obtain ⟨k, r, hk, hrun, hinv⟩ := ih t (by have := step_stepsLeft_lt ht; omega)
      exact ⟨k + 1, r, by omega, by rw [runSteps, ht, andThen_next_left, hrun], fun hs => hinv (hs.step ht)⟩
    · exact ⟨1, r, by omega, by rw [runSteps, hr]; rfl, hinv⟩

/-- Settles O13, by induction on the steps left. -/
theorem everyRunEnds : Obligations.EveryRunEnds := fun s =>
  run_stops _ s (stepsLeft_le s)

end Sys2Proof.Machine

/-! PROOFS. What the decoder reads from a command's own words (R101 to R107, R111): the whole command, and TruncatedCommand from
a proper beginning of it. -/

namespace Sys2Proof

open Laws.EncodesToRow (row matches_of_code)

/-- The header of a command matches the command's row of R107. -/
theorem encodeHeader_matches_row (i : Instr) : encodeHeader i &&& (row i).mask = (row i).pattern := by
  refine (matches_of_code (i := i) ?_).1
  cases i <;> exact hdrOp_header ..

/-- A header that matches a row names that row. -/
theorem opOfCode_of_matches {h : Word} {o : Op} (e : h &&& o.mask = o.pattern) : opOfCode (hdrOp h) = some o :=
  opOfCode_of_code (code_of_pattern e)

/-- The length that a well-formed TLOAD's header carries is that of its entries (R104, R106). -/
theorem hdrLen_encodeHeader_tload {ch : Chan} {k : Kind} {es : List Word} (h : es.length ≤ Config.tableMax) :
    hdrLen (encodeHeader (.tload ch k es)) = es.length := by
  unfold Config.tableMax at h
  rw [encodeHeader, hdrLen_eq, hdrImm8_header, BitVec.toNat_ofNat]
  omega

/-- A well-formed TLOAD has 1 to 100 entries (R261). -/
theorem wf_tload {ch : Chan} {k : Kind} {es : List Word} (h : (Instr.tload ch k es).wf = true) :
    1 ≤ es.length ∧ es.length ≤ Config.tableMax :=
  of_decide_eq_true h

/-- The operand count that the decoder takes from a command's header is the command's (R106). -/
theorem count_encodeHeader {i : Instr} (hw : i.wf = true) : (row i).count (encodeHeader i) = i.operandCount := by
  cases i with
  | tload ch k es => exact hdrLen_encodeHeader_tload (wf_tload hw).2
  | _ => rfl

/-- The header of a well-formed command passes R111's check of TLOAD's length. -/
theorem hdrLen_encodeHeader_bounds {i : Instr} (hw : i.wf = true) (ho : row i = .tload) :
    1 ≤ hdrLen (encodeHeader i) ∧ hdrLen (encodeHeader i) ≤ Config.tableMax := by
  cases i with
  | tload ch k es =>
    rw [hdrLen_encodeHeader_tload (wf_tload hw).2]
    exact wf_tload hw
  | _ => exact nomatch ho

/-! ## A whole command -/

/-- A kind is read back from its bit (R103). -/
theorem kind_of_bit (k : Kind) : (if k.bit then Kind.domain else .raw) = k := by cases k <;> rfl

/-- A level is read back from its bit (R104). -/
theorem levelOfBit_bit (l : Level) : levelOfBit l.bit = l := by cases l <;> rfl

/-- The two levels of POLL are read back from imm8 (R104). -/
theorem hdrLevels_encodeHeader_poll (ch : Chan) (a b : Level) :
    hdrStep (encodeHeader (.poll ch a b)) = a ∧ hdrRst (encodeHeader (.poll ch a b)) = b := by
  rw [encodeHeader, hdrStep_eq, hdrRst_eq, hdrImm8_header]
  cases a <;> cases b <;> decide

/-- The row of a command builds it back from its header and its operand words, whatever follows (R105). -/
theorem buildInstr_encode {i : Instr} (hw : i.wf = true) (rest : List Word) :
    buildInstr (row i) (encodeHeader i) (operandWords i ++ rest) = .ok i := by
  cases i with
  | setclk | commit => rfl
  | init => simp [buildInstr, row, encodeHeader]
  | select m =>
    have hm : hdrMask (encodeHeader (.select m)) = m := by simp [encodeHeader, hdrMask_eq]
    rw [row, buildInstr, hm]
  | setf | setp | seta => simp [buildInstr, row, encodeHeader, operandWords, operand, kind_of_bit]
  | swpf | swpp | swpa =>
    simp [buildInstr, row, encodeHeader, operandWords, decodeSweepOps_words, Except.map, kind_of_bit]
  | tload ch k es =>
    rw [row, buildInstr, hdrLen_encodeHeader_tload (wf_tload hw).2, operandWords, List.take_left]
    simp [encodeHeader, kind_of_bit]
  | poll ch a b =>
    obtain ⟨ha, hb⟩ := hdrLevels_encodeHeader_poll ch a b
    rw [row, buildInstr, ha, hb, encodeHeader, hdrCh_header]

/-- A well-formed command is decoded from its words, whatever follows them (R111). -/
theorem decode_encode_append {i : Instr} (hw : i.wf = true) (rest : List Word) : decode (encode i ++ rest) = .ok i := by
  have hm := encodeHeader_matches_row i
  have hp : RowPasses (row i) (encodeHeader i) (operandWords i ++ rest) := by
    refine ⟨hm, hdrLen_encodeHeader_bounds hw, ?_⟩
    rw [count_encodeHeader hw, List.length_append, operandWords_length]
    omega
  simp only [encode, List.cons_append, decode, opOfCode_of_matches hm]
  rw [decodeRow_of_passes hp, buildInstr_encode hw]

/-! ## A proper beginning of a command -/

/-- R111's third check: a header that passes the first two with too few words after it. -/
theorem decodeRow_truncated {o : Op} {h : Word} {ws : List Word} (hm : h &&& o.mask = o.pattern)
    (hlen : o = .tload → 1 ≤ hdrLen h ∧ hdrLen h ≤ Config.tableMax) (hlt : ws.length < o.count h) :
    decodeRow o h ws = .error .truncatedCommand := by
  have hn : ¬(o = .tload ∧ (hdrLen h = 0 ∨ hdrLen h > Config.tableMax)) := by
    rintro ⟨ho, hl⟩
    have := hlen ho
    omega
  rw [decodeRow, if_neg (not_not_intro hm), if_neg hn, if_pos hlt]

/-- A proper, non-empty beginning of a command's words is no command (R60, R111). -/
theorem decode_take_encode {i : Instr} {n : Nat} (hw : i.wf = true) (h1 : 1 ≤ n) (hn : n ≤ i.operandCount) :
    decode ((encode i).take n) = .error .truncatedCommand := by
  obtain ⟨m, rfl⟩ := Nat.exists_eq_add_of_le' h1
  have hm := encodeHeader_matches_row i
  have hlt : ((operandWords i).take m).length < (row i).count (encodeHeader i) := by
    rw [count_encodeHeader hw, List.length_take]
    omega
  simp only [encode, List.take_succ_cons, decode, opOfCode_of_matches hm]
  exact decodeRow_truncated hm (hdrLen_encodeHeader_bounds hw) hlt

end Sys2Proof

namespace Sys2Proof.Machine

/-- Settles O8: the first two checks of R111 pass on the header, the third does not. -/
theorem truncatedCommandFaults : Obligations.TruncatedCommandFaults := by
  intro s hf hs
  refine ⟨fun hcp => ?_, fun i n hw h1 hn hdrop => ?_⟩
  · have hfetch : s.fetch = .error .truncatedCommand := by
      rw [State.fetch, List.drop_eq_nil_of_le hcp.le]
      rfl
    exact step_of_fetch_error hf hs (State.not_final hcp.ne') hfetch
  · have hlen := congrArg List.length hdrop
    rw [List.length_drop, List.length_take, encode_length] at hlen
    have hfetch : s.fetch = .error .truncatedCommand := by
      rw [State.fetch, hdrop, decode_take_encode hw h1 hn]
    exact step_of_fetch_error hf hs (State.not_final (by omega)) hfetch

end Sys2Proof.Machine

/-! PROOFS. The observer (R72 to R78): what a frame and an UPDATE do to its registers, and what the commands leave in it. -/

namespace Sys2Proof.Machine

/-! ## Channel registers -/

/-- A write field by field: the register at the address takes the value, every other stays (R62, R73). -/
theorem ChanRegs.write_eq (r : ChanRegs) (a : Byte) (v : Nat) :
    r.write a v =
      { cfr := if a = addrCfr then BitVec.ofNat 24 v else r.cfr
        cftw0 := if a = addrFtw then BitVec.ofNat 32 v else r.cftw0
        cpow0 := if a = addrPow then BitVec.ofNat 16 v else r.cpow0
        acr := if a = addrAcr then BitVec.ofNat 24 v else r.acr
        lsrr := if a = addrLsrr then BitVec.ofNat 16 v else r.lsrr
        rdw := if a = addrRdw then BitVec.ofNat 32 v else r.rdw
        fdw := if a = addrFdw then BitVec.ofNat 32 v else r.fdw
        cw1 := if a = addrCw1 then BitVec.ofNat 32 v else r.cw1 } := by
  have haddr : ∀ b : Byte, a = b ↔ a.toNat = b.toNat := fun _ => BitVec.toNat_inj.symm
  simp only [haddr, ChanRegs.write]
  split
  case h_9 => simp_all [addrCfr, addrFtw, addrPow, addrAcr, addrLsrr, addrRdw, addrFdw, addrCw1]
  all_goals next h => rw [h]; rfl

/-- Writes to different registers commute. -/
theorem ChanRegs.write_comm (r : ChanRegs) {a b : Byte} (h : a ≠ b) (v w : Nat) :
    (r.write a v).write b w = (r.write b w).write a v := by
  have hne : ∀ c : Byte, b = c → a ≠ c := fun c hb ha => h (ha.trans hb.symm)
  simp only [ChanRegs.write_eq, ChanRegs.mk.injEq]
  exact ⟨ite_ite_comm _ _ _ _ (hne _), ite_ite_comm _ _ _ _ (hne _), ite_ite_comm _ _ _ _ (hne _),
    ite_ite_comm _ _ _ _ (hne _), ite_ite_comm _ _ _ _ (hne _), ite_ite_comm _ _ _ _ (hne _),
    ite_ite_comm _ _ _ _ (hne _), ite_ite_comm _ _ _ _ (hne _)⟩

/-- Two writes of one value to one register are one. -/
theorem ChanRegs.write_write (r : ChanRegs) (a : Byte) (v : Nat) : (r.write a v).write a v = r.write a v := by
  simp only [ChanRegs.write_eq, ChanRegs.mk.injEq]
  simp +contextual

/-! ## Frames -/

/-- The routing of a frame, channel by channel (R73). -/
theorem Chip.getElem_routeFrame (chip : Chip) (a : Byte) (v : Nat) (c : Chan) :
    (chip.routeFrame a v)[c.val] =
      if chip.ocsr.getLsbD (4 + c.val) then (chip.pend[c.val]).write a v else chip.pend[c.val] := by
  fin_cases c <;> rfl

/-- Frames to different channel registers are routed in either order with one result. -/
theorem Chip.routeFrame_comm (chip : Chip) {a b : Byte} (h : a ≠ b) (v w : Nat) :
    ({ chip with pend := chip.routeFrame a v } : Chip).routeFrame b w =
      ({ chip with pend := chip.routeFrame b w } : Chip).routeFrame a v := by
  refine Vector.ext fun i hi => ?_
  simp only [Chip.getElem_routeFrame _ _ _ ⟨i, hi⟩]
  split
  · exact ChanRegs.write_comm _ h v w
  · rfl

/-- A frame to a channel register routed twice is routed once. -/
theorem Chip.routeFrame_routeFrame (chip : Chip) (a : Byte) (v : Nat) :
    ({ chip with pend := chip.routeFrame a v } : Chip).routeFrame a v = chip.routeFrame a v := by
  refine Vector.ext fun i hi => ?_
  simp only [Chip.getElem_routeFrame _ _ _ ⟨i, hi⟩]
  split
  · exact ChanRegs.write_write _ a v
  · rfl

/-- A CSR frame is the whole chip CSR, at once or pending (R73, R74). -/
theorem Chip.onFrame_csr (b : Bool) (chip : Chip) (p : List Byte) :
    chip.onFrame b addrCsr p =
      if b then { chip with pcsr := BitVec.ofNat 8 (payloadValue p) }
      else { chip with ocsr := BitVec.ofNat 8 (payloadValue p) } := rfl

/-- An FR1 frame is the whole pending FR1 (R73). -/
theorem Chip.onFrame_fr1 (b : Bool) (chip : Chip) (p : List Byte) :
    chip.onFrame b addrFr1 p = { chip with p1 := BitVec.ofNat 24 (payloadValue p) } := rfl

/-- A frame to any other address is routed to the channels the CSR selects (R73). -/
theorem Chip.onFrame_chan (b : Bool) (chip : Chip) {a : Byte} (p : List Byte) (h0 : a ≠ addrCsr) (h1 : a ≠ addrFr1) :
    chip.onFrame b a p = { chip with pend := chip.routeFrame a (payloadValue p) } := by
  simp only [Chip.onFrame, if_neg h0, if_neg h1]

/-- Frames to FR1 and to a channel register commute: they write different registers of the observer. -/
theorem Chip.onFrame_fr1_comm (b : Bool) (chip : Chip) {a : Byte} (p q : List Byte) (h0 : a ≠ addrCsr) (h1 : a ≠ addrFr1) :
    (chip.onFrame b addrFr1 p).onFrame b a q = (chip.onFrame b a q).onFrame b addrFr1 p := by
  simp only [Chip.onFrame_fr1, Chip.onFrame_chan _ _ _ h0 h1]
  rfl

/-- Frames to different registers, neither of them the CSR, commute (R70). -/
theorem Chip.onFrame_comm (b : Bool) (chip : Chip) {a1 a2 : Byte} (p1 p2 : List Byte) (h : a1 ≠ a2) (h1 : a1 ≠ addrCsr)
    (h2 : a2 ≠ addrCsr) : (chip.onFrame b a1 p1).onFrame b a2 p2 = (chip.onFrame b a2 p2).onFrame b a1 p1 := by
  by_cases e1 : a1 = addrFr1
  · subst e1
    exact chip.onFrame_fr1_comm b p1 p2 h2 h.symm
  by_cases e2 : a2 = addrFr1
  · subst e2
    exact (chip.onFrame_fr1_comm b p2 p1 h1 h).symm
  · simp only [Chip.onFrame_chan _ _ _ h1 e1, Chip.onFrame_chan _ _ _ h2 e2]
    rw [Chip.routeFrame_comm chip h]

/-- A frame sent twice in a row is sent once (R68). -/
theorem Chip.onFrame_onFrame (b : Bool) (chip : Chip) (a : Byte) (p : List Byte) :
    (chip.onFrame b a p).onFrame b a p = chip.onFrame b a p := by
  by_cases h0 : a = addrCsr
  · subst h0
    cases b <;> rfl
  by_cases h1 : a = addrFr1
  · subst h1
    rfl
  · simp only [Chip.onFrame_chan _ _ _ h0 h1]
    rw [Chip.routeFrame_routeFrame chip]

/-- Settles O55: the observer takes frames one after the other. -/
theorem framesCommuteBeforeUpdate : Obligations.FramesCommuteBeforeUpdate :=
  fun b chip a1 _ p1 p2 => ⟨chip.onFrame_comm b p1 p2, chip.onFrame_onFrame b a1 p1⟩

/-- Settles O54, by the observer's rule for UPDATE. -/
theorem updateCommitsPending : Obligations.UpdateCommitsPending := by
  intro b chip
  have htwice : (chip.onUpdate b).onUpdate b = chip.onUpdate b := by cases b <;> rfl
  exact ⟨rfl, rfl, rfl, rfl, htwice, fun _ _ => rfl, fun _ => rfl⟩

/-! ## The commands and the observer -/

/-- SETF that its check lets through and whose conversion has the value `x` (R183). -/
theorem execSetf_of_ftwOf {v : Bool} {k : Kind} {w : Word} {s : State} {x : Nat}
    (hv : v = true → freqInvalid s.cfg k w.toNat s.clk.toNat = false)
    (hx : ftwOf k w.toNat s.clk.toNat = some x) :
    exec (.setf v k w) s = .next (((s.emit [.frame addrFtw (ftwBytes x), .update]).setLastFreq k w).complete 1) := by
  have hcheck : ¬(v && freqInvalid s.cfg k w.toNat s.clk.toNat) = true := by
    intro h
    obtain ⟨h1, h2⟩ := Bool.and_eq_true_iff.1 h
    exact nomatch (hv h1).symm.trans h2
  simp only [exec, execSetf, if_neg hcheck, hx]

/-- A frequency within the Nyquist fraction is valid (R155). -/
theorem freqInvalid_eq_false {cfg : Config.Params} {k : Kind} {w clk : Nat}
    (h : w * cfg.nyqDen ≤ (if k = .domain then clk else 2 ^ 32) * cfg.nyqNum) : freqInvalid cfg k w clk = false := by
  cases k <;> exact decide_eq_false (Nat.not_lt.2 h)

/-- The FTW register takes the whole word of a frequency frame (R62, R66, R148). -/
theorem ChanRegs.write_ftw (r : ChanRegs) (x : Nat) :
    r.write addrFtw (payloadValue (ftwBytes x)) = { r with cftw0 := BitVec.ofNat 32 x } := by
  have hv : BitVec.ofNat 32 (payloadValue (ftwBytes x)) = BitVec.ofNat 32 x := by
    rw [ftwBytes, payloadValue_bytesBE]
    exact BitVec.eq_of_toNat_eq (by simp)
  exact congrArg (fun y => { r with cftw0 := y }) hv

/-- Settles O56: the frame is routed by the chip's CSR, then the UPDATE makes it active. -/
theorem setfReachesSelectedChannels : Obligations.SetfReachesSelectedChannels := by
  intro v k w s x hclk hv hx
  have hconv : ftwOf k w.toNat s.clk.toNat = some x := by
    rw [hx]
    exact ftwOf_eq_some (hclk.imp_right (clk_toNat_eq_zero.not.2))
  refine ⟨_, execSetf_of_ftwOf (fun h => freqInvalid_eq_false (hv h)) hconv, fun c => ?_, rfl⟩
  calc _ = (s.chip.routeFrame addrFtw (payloadValue (ftwBytes x)))[c.val] := rfl
    _ = _ := by rw [Chip.getElem_routeFrame, ChanRegs.write_ftw]

/-- A payload of one byte stands for the byte (R66). -/
theorem ofNat_payloadValue_singleton (b : Byte) : BitVec.ofNat 8 (payloadValue [b]) = b := by
  simp [payloadValue]

/-- Settles O57: the one byte of SELECT's frame is the chip's CSR, at once or with COMMIT's UPDATE. -/
theorem selectRealignsChipCsr : Obligations.SelectRealignsChipCsr := by
  intro m s t u ht hu
  cases ht
  cases hu
  have hb := ofNat_payloadValue_singleton (csrMerge s.csr m)
  refine ⟨?_, fun hbuf => ?_⟩
  · cases hbuf : s.cfg.csrBuffered <;>
    simp [Chip.observeAll, Chip.observe, Chip.onFrame_csr, Chip.onUpdate, hbuf, hb]
  · simp [Chip.observeAll, Chip.observe, Chip.onFrame_csr, hbuf, hb]

/-- INIT whose ratio its check lets through (R181). -/
theorem execInit_of_ratio {v : Bool} {x : Byte} (hv : v = true → x.toNat ≤ Config.pllMax) (s : State) :
    exec (.init v x) s =
      .next (((s.emit [.reset s.cfg.resetPulseMs, .frame addrFr1 (fr1Bytes s.cfg (pllRatio x)), .update]).scaleClock
        (pllRatio x).val).complete 0) := by
  have hcheck : ¬(v && ratioInvalid x) = true := by
    intro h
    obtain ⟨h1, h2⟩ := Bool.and_eq_true_iff.1 h
    exact absurd (of_decide_eq_true h2) (Nat.not_lt.2 (hv h1))
  simp only [exec, execInit, if_neg hcheck]

/-- What INIT's events leave of the observer: fresh draws, and FR1 pending and active (R76, R181). -/
theorem Chip.observeAll_init (b : Bool) (chip : Chip) (ms : Nat) (p : List Byte) :
    chip.observeAll b [.reset ms, .frame addrFr1 p, .update] =
      ((Chip.drawn chip.nextDraw).onFrame b addrFr1 p).onUpdate b := rfl

/-- The value of an FR1 payload fills the register (R62, R66). -/
theorem toNat_ofNat_fr1Bytes (cfg : Config.Params) (r : Fin 21) :
    (BitVec.ofNat 24 (payloadValue (fr1Bytes cfg r))).toNat =
      cfg.fr1Payload[r.val].1.toNat * 2 ^ 16 + cfg.fr1Payload[r.val].2.1.toNat * 2 ^ 8 +
        cfg.fr1Payload[r.val].2.2.toNat := by
  have h1 := cfg.fr1Payload[r.val].1.isLt
  have h2 := cfg.fr1Payload[r.val].2.1.isLt
  have h3 := cfg.fr1Payload[r.val].2.2.isLt
  simp only [fr1Bytes, payloadValue_cons, payloadValue_nil, List.length_cons, List.length_nil, BitVec.toNat_ofNat]
  omega

/-- Settles O58: the reset pulse of INIT draws every register anew, and the draw's number alone is kept. -/
theorem initForgetsChipRegisters : Obligations.InitForgetsChipRegisters := by
  intro v x s chip hdraw hv
  refine ⟨_, _, execInit_of_ratio hv s, execInit_of_ratio hv _, ?_, fun r hr => ?_⟩
  · simp only [State.complete_chip, State.scaleClock_chip, State.emit_chip, Chip.observeAll_init, hdraw]
  · obtain rfl : r = pllRatio x := Fin.ext hr
    exact toNat_ofNat_fr1Bytes s.cfg (pllRatio x)

end Sys2Proof.Machine

/-! PROOFS. The table memory, the sweep and the lines (R61, R65, R223 to R230): what each leaves and how long it takes. -/

namespace Sys2Proof.Machine

/-! ## The table memory and the trace -/

/-- Settles O37: only TLOAD's loop writes entries, and it writes its own. -/
theorem tableMemoryFrame : Obligations.TableMemoryFrame := by
  intro i s t a h hout
  cases exec_outcome h with
  | raised | reported | configured => rfl
  | completed hu =>
    cases hu with
    | tload ch k es => exact (Memory.read_writeFrom ..).trans (if_neg (hout ch k es rfl))
    | _ => rfl

/-- Settles O39, by the case of TLOAD's loop. -/
theorem stepKeepsMemoryCanonical : Obligations.StepKeepsMemoryCanonical := fun _ _ => step_memory_wf

/-- Settles O43, by the events of each kind of step. -/
theorem stepKeepsTraceLegal : Obligations.StepKeepsTraceLegal := fun _ _ => step_traceLegal

/-! ## The steps of a sweep -/

/-- The step of a configured sweep is R224. -/
theorem step_of_configured {s : State} {ctx : SweepCtx} (hf : s.fault = none) (hs : s.sweep = .configured ctx) :
    step s = .next (startSweep ctx s) := by
  simp only [step, hf, hs]

/-- The step of a running sweep is R225. -/
theorem step_of_running {s : State} {ctx : SweepCtx} (hf : s.fault = none) (hs : s.sweep = .running ctx) :
    step s = .next (finishSweep ctx s) := by
  simp only [step, hf, hs]

/-- The other channels' active registers after one is set. -/
theorem Chip.act_setSwept_ne (chip : Chip) (k : SweepKind) {c d : Chan} (v : Nat) (h : d ≠ c) :
    (chip.setSwept k c v).act[d.val] = chip.act[d.val] :=
  Vector.getElem_set_ne c.isLt d.isLt fun e => h (Fin.ext e.symm)

/-- The sweep's channel's active registers after the swept one is set. -/
theorem Chip.act_setSwept_self (chip : Chip) (k : SweepKind) (c : Chan) (v : Nat) :
    (chip.setSwept k c v).act[c.val] = (chip.act[c.val]).setSwept k v :=
  Vector.getElem_set_self c.isLt

/-- What the end of a sweep's hold leaves of the observer: after a zero hold the swept register is free (D62, R230, R348). -/
def Chip.endDwell (chip : Chip) (ctx : SweepCtx) : Chip :=
  if ctx.hold = 0#32 then chip.zeroDwell ctx.kind ctx.ch else chip

/-- A hold above zero leaves the observer as it is (R78). -/
theorem Chip.endDwell_of_ne (chip : Chip) {ctx : SweepCtx} (h : ctx.hold ≠ 0#32) : chip.endDwell ctx = chip :=
  if_neg h

/-- A zero hold leaves the swept register at some value, and counts a draw (D62). -/
theorem Chip.endDwell_of_zero (chip : Chip) {ctx : SweepCtx} (h : ctx.hold = 0#32) :
    ∃ v, chip.endDwell ctx = { chip.setSwept ctx.kind ctx.ch v with nextDraw := (chip.endDwell ctx).nextDraw } := by
  obtain ⟨v, hv⟩ := chip.zeroDwell_eq ctx.kind ctx.ch
  rw [Chip.endDwell, if_pos h, hv]
  exact ⟨v, rfl⟩

/-- Settles O27: R225's record, and what a zero hold leaves free is one active register. -/
theorem runningSweepFinishes : Obligations.RunningSweepFinishes := by
  intro ctx s hf hs
  refine ⟨s.chip.endDwell ctx, ?_, s.chip.endDwell_of_ne, fun h0 => ?_⟩
  · rw [step_of_running hf hs, finishSweep_eq, Chip.endDwell]
  · obtain ⟨v, hv⟩ := s.chip.endDwell_of_zero h0
    rw [hv]
    refine ⟨rfl, rfl, rfl, rfl, rfl, fun d hd => s.chip.act_setSwept_ne ctx.kind v hd, v, ?_⟩
    refine (s.chip.act_setSwept_self ctx.kind ctx.ch v).trans ?_
    cases ctx.kind <;> rfl

/-- A command that leaves the FSM outside Idle has configured its sweep with seven frames, as one record (R223). -/
theorem exec_configures {i : Instr} {ctx : SweepCtx} {s t : State} (hi : sweepCtxOf i = some ctx) (hs : s.sweep = .idle)
    (h : exec i s = .next t) (ht : t.sweep ≠ .idle) :
    ∃ (csr : Byte) (frames : List Event), frames.length = 7 ∧ (∀ e ∈ frames, ∃ a b, e = .frame a b) ∧
      t = { s with
        csr := csr
        trace := s.trace ++ frames
        chip := s.chip.observeAll s.cfg.csrBuffered frames
        sweep := .configured ctx } := by
  cases exec_outcome h with
  | raised | reported => exact absurd hs ht
  | completed hu => exact absurd (hu.sweep.trans hs) ht
  | @configured kind ch p w hc hw =>
    cases hi.symm.trans hc
    refine ⟨_, _, rfl, ?_, configureSweep_eq kind ch p w s⟩
    simp only [sweepFrames, List.forall_mem_cons]
    exact ⟨⟨_, _, rfl⟩, ⟨_, _, rfl⟩, hw.frame, ⟨_, _, rfl⟩, ⟨_, _, rfl⟩, ⟨_, _, rfl⟩, ⟨_, _, rfl⟩, by simp⟩

/-- The events of the two steps after a sweep's command (R224, R225). -/
def rampEvents (ctx : SweepCtx) : List Event :=
  [.update, .gate ctx.ch .high, .delay ctx.hold.toNat, .gate ctx.ch .low]

/-- The two steps after a sweep's command, as one record (R224, R225). -/
theorem runSteps_two_of_configured {s : State} {ctx : SweepCtx} (hf : s.fault = none) (hs : s.sweep = .configured ctx) :
    runSteps 2 s = .next { s with
      trace := s.trace ++ rampEvents ctx
      chip := (s.chip.observeAll s.cfg.csrBuffered (rampEvents ctx)).endDwell ctx
      gate := s.gate.set ctx.ch.val .low
      sweep := .idle
      status := .ok
      cp := s.cp + 7 } := by
  have hrun : step (startSweep ctx s) = .next (finishSweep ctx (startSweep ctx s)) := by
    rw [startSweep_eq]
    exact step_of_running hf rfl
  have hchip : (s.chip.observeAll s.cfg.csrBuffered (rampEvents ctx)) =
      s.chip.observeAll s.cfg.csrBuffered [.update, .gate ctx.ch .high] := rfl
  rw [runSteps, step_of_configured hf hs, andThen_next_left, runSteps, hrun, andThen_next_left, runSteps,
    finishSweep_eq, startSweep_eq, hchip]
  simp [rampEvents, Chip.endDwell]

/-- Settles O28: the command's own step configures the sweep, and two more end it. -/
theorem sweepRunsToCompletion : Obligations.SweepRunsToCompletion := by
  intro s s1 i ctx rest hf hs hw hdrop hi he hs1
  have hfetch : s.fetch = .ok i := by rw [State.fetch, hdrop, decode_encode_append hw]
  obtain ⟨csr, frames, hlen, hframes, heq⟩ := exec_configures hi hs he hs1
  have hrun := runSteps_two_of_configured (s := s1) (by rw [heq]; exact hf) (by rw [heq])
  subst heq
  refine ⟨frames, frames ++ rampEvents ctx,
    (s.chip.observeAll s.cfg.csrBuffered (frames ++ rampEvents ctx)).endDwell ctx, hlen, rfl, hframes, rfl, ?_,
    Chip.endDwell_of_ne _, Chip.endDwell_of_zero _⟩
  rw [runSteps, step_of_fetch hf hs hfetch, he, andThen_next_left, hrun]
  simp only [hs, List.append_assoc, Chip.observeAll_append]

/-! ## A frame on the lines -/

/-- What a choice of line items takes from a frame: from the two chip-selects and, between them, each bit's clock cycle (R65). -/
theorem filterMap_wire_frame {α : Type} (f : WireItem → Option α) (a : Byte) (p : List Byte) :
    (Event.frame a p).wire.filterMap f =
      [WireItem.chipSelect .low].filterMap f ++
        (((a :: p).flatMap bitsMsbFirst).flatMap fun b => (clockCycle b).filterMap f) ++
        [WireItem.chipSelect .high].filterMap f := by
  rw [Event.wire_frame, ← List.singleton_append]
  simp only [List.filterMap_append, List.filterMap_flatMap, List.append_assoc]

/-- Every byte has eight bits on the bus (R65). -/
theorem length_flatMap_bitsMsbFirst (bs : List Byte) : (bs.flatMap bitsMsbFirst).length = 8 * bs.length := by
  induction bs with
  | nil => rfl
  | cons b bs ih =>
    rw [List.flatMap_cons, List.length_append, ih, List.length_cons]
    show 8 + _ = _
    omega

/-- The registers of R62 have addresses below 0x80. -/
theorem getLsbD_seven_of_regWidth {a : Byte} (h : regWidth a ≠ none) : a.getLsbD 7 = false := by
  revert a
  decide

/-- One list for each element depends on the number of elements alone. -/
theorem flatMap_const_eq_of_length_eq {α β γ : Type} {l : List α} {m : List β} (h : l.length = m.length) (c : List γ) :
    (l.flatMap fun _ => c) = m.flatMap fun _ => c := by
  simp only [List.flatMap_def, List.map_const', h]

/-- Settles O59: what a frame's clock cycles carry of the data line and of the clock line. -/
theorem frameOnTheBus : Obligations.FrameOnTheBus := by
  intro a p d bits hbits
  replace hbits : bits = (a :: p).flatMap bitsMsbFirst := hbits
  subst hbits
  have hlen := length_flatMap_bitsMsbFirst (a :: p)
  rw [List.length_cons, Nat.add_comm] at hlen
  refine ⟨?clocks, ?sampled, ?data, ?clockLine, rfl, ?last, fun hl => ?bit7⟩
  case clocks => rw [Event.serialClocks, Event.busBytes, List.length_cons, Nat.add_comm]
  case sampled =>
    rw [Event.wire_frame]
    exact (sampledBits_clockCycles _ d _).trans (List.append_nil _)
  case data =>
    rw [filterMap_wire_frame]
    exact (List.append_nil _).trans (List.flatMap_singleton' _)
  case clockLine =>
    rw [filterMap_wire_frame]
    refine (List.append_nil _).trans (flatMap_const_eq_of_length_eq ?_ _)
    rw [hlen, List.length_range]
  case last => rw [Event.wire_frame, ← List.cons_append, List.getLast?_concat]
  case bit7 =>
    have hw : regWidth a = some p.length := eq_of_beq hl
    exact getLsbD_seven_of_regWidth (by rw [hw]; exact Option.some_ne_none _)

end Sys2Proof.Machine

/-! PROOFS. The decoder and its encoder undo each other (R107, R111, R112), and what a header decides on its own (R107, R109 to
R111, R306). -/

namespace Sys2Proof

/-- Settles O1: the row of a command builds it back from its own words. -/
theorem decodeOfEncode : Obligations.DecodeOfEncode :=
  fun _ rest hw => decode_encode_append hw rest

/-- Settles O2: the header and the operand words of a row's command are those it was built from. -/
theorem encodeOfDecode : Obligations.EncodeOfDecode :=
  fun _ _ hd => ⟨(decode_ok_wf hd).1, eq_encode_append_of_decode hd⟩

/-- The words of a well-formed command, written out, decode to it. -/
theorem decode_of_eq_encode {ws : List Word} {i : Instr} (hw : i.wf = true) (h : ws = encode i) : decode ws = .ok i := by
  have hd := decode_encode_append hw []
  rwa [List.append_nil, ← h] at hd

/-- Settles O5: each list of words is the encoding of its command. -/
theorem exampleWordsDecode : Obligations.ExampleWordsDecode := by
  refine ⟨?_, ?_, ?_, ?_, ?_, ?_, ?_⟩ <;> exact decode_of_eq_encode rfl (by decide)

/-- Settles O3: the row that a header matches is the one its opcode byte names. -/
theorem headerSelectsOneRow : Obligations.HeaderSelectsOneRow := by
  intro h o ho
  refine ⟨code_of_pattern ho, fun p hp => ?_⟩
  exact Option.some.inj ((opOfCode_of_matches hp).symm.trans (opOfCode_of_matches ho))

/-! ## The checks of R111, one by one -/

/-- A header with a row's opcode byte is decoded on that row. -/
theorem decode_cons_of_code {h : Word} {o : Op} (ws : List Word) (e : o.code.toNat = h.toNat % 256) :
    decode (h :: ws) = decodeRow o h ws := by
  simp only [decode, opOfCode_of_code e]

/-- A reserved opcode is no command (R108). -/
theorem decode_cons_of_reserved {h : Word} (ws : List Word) (e : h.toNat % 256 = 0 ∨ 12 < h.toNat % 256) :
    decode (h :: ws) = .error .reservedOpcode := by
  simp only [decode, opOfCode_of_reserved e]

/-- R111's first check on a row: the reserved header bits (R109). -/
theorem decodeRow_reservedField {o : Op} {h : Word} (ws : List Word) (hm : h &&& o.mask ≠ o.pattern) :
    decodeRow o h ws = .error .reservedField :=
  if_pos hm

/-- R111's second check on a row: TLOAD's length (R106). -/
theorem decodeRow_tableLength {h : Word} (ws : List Word) (hm : h &&& Op.tload.mask = Op.tload.pattern)
    (hlen : hdrLen h = 0 ∨ Config.tableMax < hdrLen h) : decodeRow .tload h ws = .error .tableLength := by
  rw [decodeRow, if_neg (not_not_intro hm), if_pos ⟨rfl, hlen⟩]

/-- The rows whose commands have a sweep's six operands (R105). -/
def Op.IsSweep (o : Op) : Prop := o = .swpf ∨ o = .swpp ∨ o = .swpa

/-- R111's last check: a sweep's w4 has reserved bits (R109). -/
theorem buildInstr_reservedField {o : Op} {h : Word} {ws : List Word} (ho : o.IsSweep)
    (h4 : 2 ^ 16 ≤ (operand ws 4).toNat) : buildInstr o h ws = .error .reservedField := by
  have hops : decodeSweepOps ws = .error .reservedField := by
    rw [decodeSweepOps, if_neg]
    rw [highHalf_eq_zero]
    omega
  rcases ho with rfl | rfl | rfl <;> rw [buildInstr, hops] <;> rfl

/-- Where R111's last check passes, a row builds a command. -/
theorem buildInstr_isOk {o : Op} {h : Word} {ws : List Word} (h4 : o.IsSweep → (operand ws 4).toNat < 2 ^ 16) :
    ∃ i, buildInstr o h ws = .ok i := by
  by_cases ho : o.IsSweep
  · have hops : ∃ p, decodeSweepOps ws = .ok p := ⟨_, if_pos ((highHalf_eq_zero _).2 (h4 ho))⟩
    obtain ⟨p, hp⟩ := hops
    rcases ho with rfl | rfl | rfl <;> exact ⟨_, by rw [buildInstr, hp]; rfl⟩
  · cases o with
    | swpf => exact absurd (.inl rfl) ho
    | swpp => exact absurd (.inr (.inl rfl)) ho
    | swpa => exact absurd (.inr (.inr rfl)) ho
    | _ => exact ⟨_, rfl⟩

/-- A sweep's row with its operands there and reserved bits in w4 is no command (R109). -/
theorem decodeRow_sweep_reservedField {o : Op} {h : Word} {ws : List Word} (ho : o.IsSweep)
    (hm : h &&& o.mask = o.pattern) (hc : o.count h ≤ ws.length) (h4 : 2 ^ 16 ≤ (operand ws 4).toNat) :
    decodeRow o h ws = .error .reservedField := by
  have hp : RowPasses o h ws := by
    refine ⟨hm, fun ht => ?_, hc⟩
    subst ht
    simp [Op.IsSweep] at ho
  rw [decodeRow_of_passes hp, buildInstr_reservedField ho h4]

/-- Settles O4: each check of R111, the ones before it passed. -/
theorem decodeFollowsCheckOrder : Obligations.DecodeFollowsCheckOrder := by
  intro h ws
  refine ⟨decode_cons_of_reserved ws, fun o ho => ?_⟩
  rw [decode_cons_of_code ws ho, ← hdrLen_eq_div]
  refine ⟨decodeRow_reservedField ws, fun hm => ⟨?length, fun hlen => ⟨?truncated, fun hc => ⟨?operand, ?command⟩⟩⟩⟩
  case length =>
    rintro rfl hlen
    exact decodeRow_tableLength ws hm hlen
  case truncated => exact decodeRow_truncated hm hlen
  case operand => exact fun hsw h4 => decodeRow_sweep_reservedField hsw hm hc h4
  case command =>
    intro h4
    rw [decodeRow_of_passes ⟨hm, hlen, hc⟩]
    refine buildInstr_isOk fun hsw => h4.resolve_left ?_
    rintro ⟨h1, h2, h3⟩
    exact hsw.elim h1 fun hsw => hsw.elim h2 h3

end Sys2Proof

/-! PROOFS. The step of a block that is ready to decode, from the words at cp (R108, R109, R111, R302); that a block with the
invariant has a step (R317). -/

namespace Sys2Proof.Machine

/-- A block with a word at cp whose decoding fails records the fault and nothing else (R302). -/
theorem step_of_decode_error {s : State} {h : Word} {ws : List Word} {k : FaultKind} (hf : s.fault = none)
    (hs : s.sweep = .idle) (hdrop : s.stream.drop s.cp = h :: ws) (hd : decode (h :: ws) = .error k) :
    step s = .next { s with fault := some k } := by
  have hcp : s.cp ≠ s.stream.length := fun e => by rw [e, List.drop_length] at hdrop; exact nomatch hdrop
  exact step_of_fetch_error hf hs (State.not_final hcp) (by rw [State.fetch, hdrop, hd])

/-- Settles O6: the opcode is the first thing that decode looks at. -/
theorem reservedOpcodeFaults : Obligations.ReservedOpcodeFaults := by
  intro s h hf hs hcmd hop
  obtain ⟨ws, hdrop⟩ := State.drop_of_cmdWord hcmd
  exact step_of_decode_error hf hs hdrop (decode_cons_of_reserved ws hop)

/-- Settles O7: the first and the last check of R111. -/
theorem reservedFieldFaults : Obligations.ReservedFieldFaults := by
  intro s h ws o hf hs hdrop ho
  refine ⟨fun hm => ?_, fun hm hsw hlen h4 => ?_⟩
  · refine step_of_decode_error hf hs hdrop ?_
    rw [decode_cons_of_code ws ho, decodeRow_reservedField ws hm]
  · have hc : o.count h ≤ ws.length := by rcases hsw with rfl | rfl | rfl <;> exact hlen
    refine step_of_decode_error hf hs hdrop ?_
    rw [decode_cons_of_code ws ho, decodeRow_sweep_reservedField hsw hm hc h4]

/-- Settles O9: what is fetched at cp decides the step. -/
theorem stepRunsDecodedInstruction : Obligations.StepRunsDecodedInstruction := by
  intro s hf hs
  refine ⟨fun i rest hw hdrop => ?_, fun k hcp hd => ?_, fun h ws hdrop hm hlen => ?_⟩
  · exact step_of_fetch hf hs (by rw [State.fetch, hdrop, decode_encode_append hw])
  · exact step_of_fetch_error hf hs (State.not_final hcp) hd
  · rw [← hdrLen_eq_div] at hlen
    refine step_of_decode_error hf hs hdrop ?_
    rw [decode_cons_of_code ws (code_of_pattern hm), decodeRow_tableLength ws hm hlen]

/-- No command is refused and none stops where every channel's table is in range (R300). -/
theorem exec_isNext_of_stepperOk {s : State} (h : ∀ c, StepperOk s c) (i : Instr) : ∃ t, exec i s = .next t := by
  by_cases hi : ∃ c a b, i = .poll c a b
  · obtain ⟨c, a, b, rfl⟩ := hi
    exact execPoll_isNext (h c)
  · exact exec_isNext (fun c a b e => hi ⟨c, a, b, e⟩) s

/-- Settles O12, by the sweep state and what is fetched at cp. -/
theorem unfinishedBlockHasStep : Obligations.UnfinishedBlockHasStep := by
  intro s hinv hf hfin
  cases hs : s.sweep with
  | configured ctx => exact ⟨_, step_of_configured hf hs⟩
  | running ctx => exact ⟨_, step_of_running hf hs⟩
  | idle =>
    cases hfetch : s.fetch with
    | error k => exact ⟨_, step_of_fetch_error hf hs hfin hfetch⟩
    | ok i =>
      rw [step_of_fetch hf hs hfetch]
      exact exec_isNext_of_stepperOk hinv.steppers i

end Sys2Proof.Machine

/-! PROOFS. The pseudo-instructions of the assembler (R124 to R127). -/

namespace Sys2Proof.Machine

/-- A number that fits is a field. -/
theorem asmField_of_lt {n x : Nat} (h : x < 2 ^ n) : asmField n x = some (BitVec.ofNat n x) := if_pos h

/-- The number of a channel is a channel operand. -/
theorem asmChan_val (c : Chan) : asmChan c.val = some c := dif_pos c.isLt

/-- A line without .V whose .W is allowed and whose commands are known and well formed is those commands (R123). -/
theorem assembleLine_of_commands {m : Mnem} {w : Bool} {k : Kind} {args : List AsmArg} {is : List Instr}
    (hw : w = true → m.allowsW = true) (hk : k = if w then .raw else .domain)
    (hc : asmCommands m false k args = some is) (hwf : is.all Instr.wf = true) :
    assembleLine { mnem := m, v := false, w := w, args := args } = some is := by
  have hq : (false && !m.allowsV || w && !m.allowsW) = false := by
    cases w with
    | false => rfl
    | true => rw [hw rfl]; rfl
  subst hk
  simp only [assembleLine, hq, Bool.false_eq_true, if_false, hc, hwf, if_true]

/-- Settles O49: the operands fit their fields, and every command of an expansion is well formed. -/
theorem pseudoInstructionsExpand : Obligations.PseudoInstructionsExpand := by
  refine ⟨fun w k f p hk hf hp => ?setfp, fun c => ?selch, fun c => ?edge, fun c => ?redge, fun p hp => ?setpc⟩
  case setfp =>
    refine assembleLine_of_commands (fun _ => rfl) hk ?_ rfl
    simp only [asmCommands, asmField_of_lt hf, asmField_of_lt hp, Option.bind_eq_bind, Option.bind_some]
  case selch =>
    have hmask : chanMask c = BitVec.ofNat 4 (2 ^ c.val) := by revert c; decide
    refine assembleLine_of_commands (by simp) rfl ?_ rfl
    simp only [asmCommands, asmChan_val, Option.bind_eq_bind, Option.bind_some, hmask]
  case edge | redge =>
    refine assembleLine_of_commands (by simp) rfl ?_ rfl
    simp only [asmCommands, asmChan_val, Option.bind_eq_bind, Option.bind_some]
  case setpc =>
    refine assembleLine_of_commands (k := .domain) (by simp) rfl ?_ rfl
    simp only [asmCommands, asmField_of_lt hp, Option.bind_eq_bind, Option.bind_some]

end Sys2Proof.Machine

/-! PROOFS. Step edges walk a loaded table (R126, R261, R263, R265, R266): one edge moves the cursor on by one entry and programs
it, at the last entry it does nothing, and so for any number of edges. -/

namespace Sys2Proof.Machine

/-- A sequence of three parts groups either way. -/
theorem andThen_assoc (r : Result) (f g : State → Result) :
    andThen (andThen r f) g = andThen r fun s => andThen (f s) g := by
  cases r <;> rfl

/-- The first of several step edges comes before the others. -/
theorem stepEdges_succ (c : Chan) (n : Nat) (s : State) :
    stepEdges c (n + 1) s = andThen (andThen (execPoll c .low .low s) (execPoll c .high .low)) (stepEdges c n) :=
  (andThen_assoc ..).symm

/-- Channel `c` holds the table `es` of kind `k`, its conversions have values, and the next step edge is to move the cursor to
entry `j`, where there is one. -/
structure TableAt (c : Chan) (k : Kind) (es : List Word) (j : Nat) (s : State) : Prop where
  stepper : ∃ a b, s.stepper c = { tlen := es.length, tkind := k, cursor := (j : Int) - 1, stepLatch := a, resetLatch := b }
  entries : ∀ i (hi : i < es.length), s.tableRead c i = some es[i]
  nonempty : 0 < es.length
  next_le : j ≤ es.length
  convertible : k = .raw ∨ s.clk.toNat ≠ 0

/-- `t` comes from `s` by programming the entries `prog` of kind `k` in order, each with the events `act` and the csr value
`csr`, and no clock changed (R265). -/
structure Programs (k : Kind) (csr : Byte) (act : Word → List Event) (prog : List Word) (s t : State) : Prop where
  trace : t.trace = s.trace ++ prog.flatMap act
  csr : t.csr = if prog = [] then s.csr else csr
  lastFreq : t.lastFreq = (prog.getLast?.map fun e => (k, e)).or s.lastFreq
  clk : t.clk = s.clk

section
variable {k : Kind} {csr : Byte} {act : Word → List Event} {s t u : State}

/-- Where nothing of these fields changes, no entry is programmed. -/
theorem Programs.nil (htrace : t.trace = s.trace) (hcsr : t.csr = s.csr) (hlast : t.lastFreq = s.lastFreq)
    (hclk : t.clk = s.clk) : Programs k csr act [] s t :=
  ⟨by simp [htrace], by simp [hcsr], by simp [hlast], hclk⟩

/-- Programming two lists in order is programming their concatenation. -/
theorem Programs.append {p q : List Word} (hp : Programs k csr act p s t) (hq : Programs k csr act q t u) :
    Programs k csr act (p ++ q) s u := by
  refine ⟨?_, ?_, ?_, hq.clk.trans hp.clk⟩
  · rw [hq.trace, hp.trace, List.flatMap_append, List.append_assoc]
  · rw [hq.csr, hp.csr]
    cases q <;> simp
  · rw [hq.lastFreq, hp.lastFreq, List.getLast?_append]
    cases q.getLast? <;> rfl

end

/-- The register word of an entry of kind `k` (R142). -/
def entryWord (k : Kind) (clk : Nat) (w : Word) : Nat :=
  if k = .domain then w.toNat * 2 ^ 32 / clk % 2 ^ 32 else w.toNat

/-- The events of programming an entry of channel `c` in state `s` (R265). -/
def entryEvents (c : Chan) (k : Kind) (s : State) (w : Word) : List Event :=
  programEvents s.csr c (entryWord k s.clk.toNat w)

section
variable {c : Chan} {k : Kind} {es : List Word} {j : Nat} {s : State}

/-- A step edge moves the cursor on to the next entry and programs it, where there is one; at the last entry it programs
nothing and the cursor stays (D29, R263). -/
theorem TableAt.edge (h : TableAt c k es j s) :
    ∃ t, andThen (execPoll c .low .low s) (execPoll c .high .low) = .next t ∧ TableAt c k es (min (1 + j) es.length) t ∧
      Programs k (csrMerge s.csr (chanMask c)) (entryEvents c k s) ((es.drop j).take 1) s t := by
  obtain ⟨⟨a, b, hstep⟩, hentries, hpos, hle, hconv⟩ := h
  rcases hle.lt_or_eq with hj | rfl
  · have hbelow : true = decide ((j : Int) - 1 < (es.length : Int) - 1) := by simpa using hj
    have hindex : ((j : Int) - 1 + 1).toNat = j := by omega
    have hrun := stepEdge_eq hstep hpos hbelow (fun _ => by rw [hindex]; exact hentries j hj) fun _ => ftwOf_eq_some hconv
    rw [min_eq_left (by omega), Nat.add_comm, List.drop_eq_getElem_cons hj, List.take_succ_cons, List.take_zero]
    refine ⟨_, hrun, ⟨⟨.fired, .armed, ?_⟩, hentries, hpos, hj, hconv⟩, ?_, rfl, rfl, rfl⟩
    · simp [State.stepper]
    · simp [entryEvents, entryWord]
  · have hlast : false = decide ((es.length : Int) - 1 < (es.length : Int) - 1) := by simp
    have hrun := stepEdge_eq (e := 0#32) (x := 0) hstep hpos hlast nofun nofun
    rw [min_eq_right (by omega), List.drop_length, List.take_nil]
    refine ⟨_, hrun, ⟨⟨.fired, .armed, ?_⟩, hentries, hpos, hle, hconv⟩, .nil ?_ rfl rfl rfl⟩
    · simp [State.stepper]
    · simp

/-- After programming, the events of an entry are the same as before: the merge keeps csr[2:0] and the clock stays. -/
theorem Programs.entryEvents_eq {t : State} {act : Word → List Event} {prog : List Word}
    (h : Programs k (csrMerge s.csr (chanMask c)) act prog s t) :
    csrMerge t.csr (chanMask c) = csrMerge s.csr (chanMask c) ∧ entryEvents c k t = entryEvents c k s := by
  have hcsr : csrMerge t.csr (chanMask c) = csrMerge s.csr (chanMask c) := by
    rw [h.csr]
    split
    · rfl
    · exact csrMerge_csrMerge ..
  refine ⟨hcsr, funext fun w => ?_⟩
  simp only [entryEvents, programEvents, hcsr, h.clk]

/-- Any number of step edges programs so many of the entries from the next one on, in order (R266). -/
theorem TableAt.stepEdges (h : TableAt c k es j s) (n : Nat) :
    ∃ t, stepEdges c n s = .next t ∧ TableAt c k es (min (n + j) es.length) t ∧
      Programs k (csrMerge s.csr (chanMask c)) (entryEvents c k s) ((es.drop j).take n) s t := by
  induction n generalizing s j with
  | zero =>
    refine ⟨s, rfl, ?_, .nil rfl rfl rfl rfl⟩
    rwa [Nat.zero_add, min_eq_left h.next_le]
  | succ n ih =>
    obtain ⟨t, hrun, htable, hprog⟩ := h.edge
    obtain ⟨u, hrun', htable', hprog'⟩ := ih htable
    obtain ⟨hcsr, hevents⟩ := hprog.entryEvents_eq
    rw [hcsr, hevents] at hprog'
    have hmin : min (n + min (1 + j) es.length) es.length = min (n + 1 + j) es.length := by omega
    have hprogs : (es.drop j).take (n + 1) = (es.drop j).take 1 ++ (es.drop (min (1 + j) es.length)).take n := by
      have hrest : es.drop (min (1 + j) es.length) = es.drop (j + 1) := List.drop_eq_drop_iff.2 (by omega)
      rw [Nat.add_comm n, List.take_add, List.drop_drop, hrest]
    refine ⟨u, by rw [stepEdges_succ, hrun, andThen_next_left, hrun'], ?_, ?_⟩
    · rwa [hmin] at htable'
    · rw [hprogs]
      exact hprog.append hprog'

end

/-- The entry before which CURSOR_INIT puts the cursor (R33, R261). -/
def firstEntry (ci : Config.CursorInit) : Nat := if ci = .minusOne then 0 else 1

/-- CURSOR_INIT is one below the entry that the first step edge moves to. -/
theorem cursorInitValue_eq_firstEntry (ci : Config.CursorInit) : cursorInitValue ci = (firstEntry ci : Int) - 1 := by
  cases ci <;> rfl

/-- TLOAD of a legal length answers a state that holds its table, with no event and no csr or frequency changed (R261). -/
theorem execTload_tableAt {ch : Chan} {k : Kind} {es : List Word} {s s0 : State} (h1 : 1 ≤ es.length)
    (h2 : es.length ≤ Config.tableMax) (hconv : k = .raw ∨ s.clk ≠ 0#64) (h : exec (.tload ch k es) s = .next s0) :
    TableAt ch k es (firstEntry s.cfg.cursorInit) s0 ∧ s0.csr = s.csr ∧ s0.clk = s.clk ∧ s0.lastFreq = s.lastFreq := by
  cases (execTload_of_length h1 h2).symm.trans h
  refine ⟨⟨⟨.armed, .armed, ?_⟩, fun i hi => ?_, h1, ?_, ?_⟩, rfl, rfl, rfl⟩
  · simp [cursorInitValue_eq_firstEntry]
  · simpa using tableRead_tableWrite_self s ch es hi
  · unfold firstEntry
    split <;> omega
  · exact hconv.imp_right fun hclk h0 => hclk (clk_toNat_eq_zero.1 h0)

/-- The events of an entry, its payload written out (R142, R265). -/
theorem entryEvents_eq (c : Chan) (k : Kind) (s : State) (w : Word) :
    let x := entryWord k s.clk.toNat w
    entryEvents c k s w = [.frame 0x00#8 [csrMerge s.csr (chanMask c)],
      .frame 0x04#8 [BitVec.ofNat 8 (x / 2 ^ 24), BitVec.ofNat 8 (x / 2 ^ 16), BitVec.ofNat 8 (x / 2 ^ 8), BitVec.ofNat 8 x],
      .update] := by
  simp only [entryEvents, programEvents, ftwBytes, bytesBE_four, addrCsr, addrFtw]

/-- Settles O34, by induction on the number of step edges. -/
theorem stepEdgesWalkTable : Obligations.StepEdgesWalkTable := by
  intro ch k es s s0 n first prog c word act h1 h2 hfirst hprog hconv hload hc hword hact
  obtain ⟨htable, hcsr, hclk, hlast⟩ := execTload_tableAt h1 h2 hconv hload
  obtain ⟨t, hrun, htable', hprogs⟩ := htable.stepEdges n
  have hc' : csrMerge s0.csr (chanMask ch) = c :=
    BitVec.eq_of_toNat_eq (by rw [csrMerge_chanMask_toNat, hcsr, hc])
  have hact' : entryEvents ch k s0 = act := funext fun w => by rw [entryEvents_eq, hact, hword, hc', entryWord, hclk]
  obtain rfl : first = firstEntry s.cfg.cursorInit := hfirst
  rw [hc', hact', ← hprog] at hprogs
  obtain ⟨htrace, hcsr', hlast', -⟩ := hprogs
  obtain ⟨⟨a, b, hstep⟩, -⟩ := htable'
  refine ⟨t, hrun, by simp [hstep], htrace, fun h => ?_, fun h => ?_⟩
  · exact ⟨by rw [hcsr', if_pos h, hcsr], by rw [hlast', h, hlast]; rfl⟩
  · refine ⟨hcsr'.trans (if_neg h), ?_⟩
    rw [hlast', List.getLast?_eq_some_getLast h]
    rfl

end Sys2Proof.Machine

/-! PROOFS. The codec's laws (R141, R143, R146, R150, R157): the frequency tuning word, the phase word and the csr merge. -/

namespace Sys2Proof.Machine

/-! ## The tuning word -/

/-- The tuning word at a running clock (R141). -/
theorem ftwHz_eq_some {clk : Nat} (f : Nat) (h : 0 < clk) : ftwHz f clk = some (f * 2 ^ 32 / clk % 2 ^ 32) :=
  if_neg h.ne'

/-- Below the clock the quotient is below 2^32, so nothing wraps (R157.1). -/
theorem ftwQuotient_mod_of_lt {f clk : Nat} (h : f < clk) : f * 2 ^ 32 / clk % 2 ^ 32 = f * 2 ^ 32 / clk :=
  Nat.mod_eq_of_lt (Nat.div_lt_of_lt_mul (Nat.mul_lt_mul_of_pos_right h (Nat.two_pow_pos 32)))

/-- Every whole clock in f adds 2^32 to the quotient, which the word drops (R141). -/
theorem ftwHz_mod (f : Nat) {clk : Nat} (h : 0 < clk) : ftwHz (f % clk) clk = ftwHz f clk := by
  have hsplit : f * 2 ^ 32 = f % clk * 2 ^ 32 + clk * (f / clk * 2 ^ 32) := by
    rw [← Nat.mul_assoc, ← Nat.add_mul, Nat.mod_add_div]
  rw [ftwHz_eq_some _ h, ftwHz_eq_some f h, hsplit, Nat.add_mul_div_left _ _ h, Nat.add_mul_mod_self_right]

/-- The quotient that makes a tuning word decodes to at most f (R150, R157.2). -/
theorem decodeFtw_le (f clk : Nat) : decodeFtw (f * 2 ^ 32 / clk) clk ≤ f := by
  have hquot : f * 2 ^ 32 / clk * clk ≤ f * 2 ^ 32 := Nat.div_mul_le_self ..
  rw [decodeFtw, div_le_iff₀ (by positivity)]
  exact_mod_cast hquot

/-- The quotient that makes a tuning word decodes to less than one step below f (R150, R157.2). -/
theorem sub_lt_decodeFtw (f : Nat) {clk : Nat} (h : 0 < clk) :
    (f : ℚ) - (clk : ℚ) / 2 ^ 32 < decodeFtw (f * 2 ^ 32 / clk) clk := by
  have hquot : f * 2 ^ 32 < f * 2 ^ 32 / clk * clk + clk := Nat.lt_div_mul_add h
  rw [decodeFtw, sub_lt_iff_lt_add, ← add_div, lt_div_iff₀ (by positivity)]
  exact_mod_cast hquot

/-- Settles O50: below the clock the word is the bare quotient, and whole clocks drop out. -/
theorem tuningWordLaws : Obligations.TuningWordLaws := by
  intro f clk hclk
  refine ⟨_, ftwHz_eq_some f hclk, Nat.mod_lt _ (Nat.two_pow_pos 32), (ftwHz_mod f hclk).trans (ftwHz_eq_some f hclk),
    fun hf => ?decodes, fun g y hg hf hy => ?monotonic⟩
  case decodes =>
    rw [ftwQuotient_mod_of_lt hf]
    exact ⟨sub_lt_decodeFtw f hclk, decodeFtw_le f clk⟩
  case monotonic =>
    rw [ftwHz_eq_some g hclk, ftwQuotient_mod_of_lt (hg.trans_lt hf)] at hy
    cases hy
    rw [ftwQuotient_mod_of_lt hf]
    exact Nat.div_le_div_right (Nat.mul_le_mul_right _ hg)

/-! ## The phase word -/

/-- A full turn, in Q16.16 degrees, adds 2^14 to the phase word's quotient (R143). -/
theorem powDeg_add_turn (v : Nat) : powDeg (v + 23592960) = powDeg v := by
  simp only [powDeg]
  omega

/-- Settles O51: in Q16.16 degrees a phase step is 1440 units, and half of one is 720. -/
theorem phaseWordRoundsHalfUp : Obligations.PhaseWordRoundsHalfUp := by
  intro v
  have hturns : (v : ℚ) / 65536 / 360 * 16384 + 1 / 2 = ((v + 720 : Nat) : ℚ) / (1440 : Nat) := by
    push_cast
    ring
  refine ⟨?_, powDeg_add_turn v⟩
  rw [hturns, Rat.floor_natCast_div_natCast, powDeg]
  norm_cast

/-! ## The csr merge -/

/-- The merge bit by bit: bits 3:0 are the old low three and a zero, the rest is the mask (R146). -/
theorem csrMerge_getLsbD (old : Byte) (m : BitVec 4) (j : Nat) :
    (csrMerge old m).getLsbD j = if j < 4 then decide (j < 3) && old.getLsbD j else m.getLsbD (j - 4) := by
  have hlow : old.toNat % 2 ^ 3 < 2 ^ 4 := by omega
  have hsum : (csrMerge old m).toNat = 2 ^ 4 * m.toNat + old.toNat % 2 ^ 3 := by
    rw [csrMerge_toNat]
    omega
  rw [BitVec.getLsbD, hsum, Nat.testBit_two_pow_mul_add _ hlow, Nat.testBit_mod_two_pow]
  rfl

/-- Settles O52, bit by bit. -/
theorem csrMergeLaws : Obligations.CsrMergeLaws := by
  intro old m1 m2
  refine ⟨csrMerge_csrMerge old m1 m2, csrMerge_low old m1, ?_, fun j _ => ?_⟩
  · rw [csrMerge_getLsbD]
    rfl
  · rw [csrMerge_getLsbD, if_neg (by omega), Nat.add_sub_cancel_left]

end Sys2Proof.Machine

/-! PROOFS. The first step of each sweep command (R220 to R223, R226 to R228): its check, and its frames written out. -/

namespace Sys2Proof.Machine

/-! ## The checks -/

/-- SWPF's check written out: the start or the end is above the Nyquist fraction (R155, R222). -/
theorem freqSweepInvalid_eq {cfg : Config.Params} {k : Kind} {clk limit : Nat} (p : SweepOps)
    (h : limit = (if k = .domain then clk else 2 ^ 32) * cfg.nyqNum) :
    freqSweepInvalid cfg k p clk = decide (limit < p.start.toNat * cfg.nyqDen ∨ limit < p.stop.toNat * cfg.nyqDen) := by
  subst h
  cases k <;> exact (Bool.decide_or _ _).symm

/-- SWPA's check written out: the start or the end word has more than ten bits (R155, R222). -/
theorem ampSweepInvalid_eq (cfg : Config.Params) (k : Kind) (p : SweepOps) :
    ampSweepInvalid cfg k p =
      decide (1023 < ampWord cfg.ampFullScale k p.start.toNat ∨ 1023 < ampWord cfg.ampFullScale k p.stop.toNat) :=
  (Bool.decide_or _ _).symm

/-- A check passes without V, or where neither of its two operands is above the limit (R102, R301). -/
theorem check_eq_false {v : Bool} {limit a b : Nat} (h : v = false ∨ (a ≤ limit ∧ b ≤ limit)) :
    (v && decide (limit < a ∨ limit < b)) = false := by
  refine Bool.and_eq_false_iff.2 (h.imp_right fun ⟨ha, hb⟩ => decide_eq_false ?_)
  omega

/-- A check fails with V where one of its two operands is above the limit (R102, R301). -/
theorem check_eq_true {v : Bool} {limit a b : Nat} (hv : v = true) (h : limit < a ∨ limit < b) :
    (v && decide (limit < a ∨ limit < b)) = true :=
  Bool.and_eq_true_iff.2 ⟨hv, decide_eq_true h⟩

/-! ## The commands -/

section
variable {ch : Chan} {v : Bool} {k : Kind} {p : SweepOps} {s : State}

/-- SWPF whose check fails (R222, R226). -/
theorem execSwpf_reports (h : (v && freqSweepInvalid s.cfg k p s.clk.toNat) = true) :
    exec (.swpf ch v k p) s = .next (s.report 6) := if_pos h

/-- SWPF whose check passes and that meets a conversion without a value (R223, R226). -/
theorem execSwpf_clockZero (h : (v && freqSweepInvalid s.cfg k p s.clk.toNat) = false)
    (hw : freqSweepWords k p s.clk.toNat = none) : exec (.swpf ch v k p) s = .next (s.raise .clockZero) := by
  simp only [exec, execSwpf, h, hw, Bool.false_eq_true, if_false, raiseFault]

/-- SWPF whose check passes and whose words exist (R223, R226). -/
theorem execSwpf_configures {w : SweepWords} (h : (v && freqSweepInvalid s.cfg k p s.clk.toNat) = false)
    (hw : freqSweepWords k p s.clk.toNat = some w) :
    exec (.swpf ch v k p) s = .next (configureSweep .freq ch p w s) := by
  simp only [exec, execSwpf, h, hw, Bool.false_eq_true, if_false]

/-- SWPA whose check fails (R222, R228). -/
theorem execSwpa_reports (h : (v && ampSweepInvalid s.cfg k p) = true) :
    exec (.swpa ch v k p) s = .next (s.report 6) := if_pos h

/-- SWPA whose check passes (R223, R228). -/
theorem execSwpa_configures (h : (v && ampSweepInvalid s.cfg k p) = false) :
    exec (.swpa ch v k p) s = .next (configureSweep .amp ch p (ampSweepWords s.cfg.ampFullScale k p) s) :=
  if_neg (Bool.eq_false_iff.1 h)

/-- R223 for a csr value and a list of frames named apart from the model's functions. -/
theorem configureSweep_of_frames {kind : SweepKind} {w : SweepWords} {c : Byte} {es : List Event}
    (hc : c.toNat = 2 ^ (4 + ch.val) + s.csr.toNat % 8) (hes : es = .frame addrCsr [c] :: sweepFrames s.cfg kind p w) :
    configureSweep kind ch p w s =
      { s with
        csr := c
        trace := s.trace ++ es
        chip := s.chip.observeAll s.cfg.csrBuffered es
        sweep := .configured { ch := ch, hold := p.hold, kind := kind } } := by
  obtain rfl : csrMerge s.csr (chanMask ch) = c := BitVec.eq_of_toNat_eq ((csrMerge_chanMask_toNat ..).trans hc.symm)
  rw [configureSweep_eq, hes]

end

/-- Settles O23: the check, then whether the conversions have values, decides among the three ends. -/
theorem swpfConfiguresFrequencySweep : Obligations.SwpfConfiguresFrequencySweep := by
  intro ch v k p s limit word be c es hlimit hword hbe hc hes
  have hcheck := freqSweepInvalid_eq p hlimit
  refine ⟨fun hv hbad => ?reports, fun hok => ?passes⟩
  case reports => exact execSwpf_reports (by rw [hcheck, check_eq_true hv hbad])
  case passes =>
    have hpass : (v && freqSweepInvalid s.cfg k p s.clk.toNat) = false := by rw [hcheck, check_eq_false hok]
    refine ⟨fun hk hclk => ?clockZero, fun hclk => ?configures⟩
    case clockZero => exact execSwpf_clockZero hpass (freqSweepWords_eq_none.2 ⟨hk, clk_toNat_eq_zero.2 hclk⟩)
    case configures =>
      rw [execSwpf_configures hpass (freqSweepWords_eq_some (hclk.imp_right clk_toNat_eq_zero.not.2))]
      refine congrArg _ (configureSweep_of_frames hc ?_)
      simp only [hes, hbe, hword, sweepFrames, ftwBytes, bytesBE_four]
      rfl

/-- Settles O24: the start's two bytes and the others' left-justified words, all of one conversion. -/
theorem swppConfiguresPhaseSweep : Obligations.SwppConfiguresPhaseSweep := by
  intro ch k p s word left c es hword hleft hc hes
  have hpow : ∀ w, powOf k w.toNat = word w := fun w => by rw [hword]; cases k <;> rfl
  refine congrArg Host.Outcome.next (configureSweep_of_frames hc ?_)
  simp only [hes, hleft, sweepFrames, phaseSweepWords, hpow, powBytes, bytesBE_two, phaseSweepBytes_eq]
  rfl

/-- Settles O25: validation sees the whole word, the frames its low ten bits. -/
theorem swpaConfiguresAmplitudeSweep : Obligations.SwpaConfiguresAmplitudeSweep := by
  intro ch v k p s word c es hword hc hes
  have hamp : ∀ w, ampWord s.cfg.ampFullScale k w.toNat = word w := fun w => by rw [hword]; cases k <;> rfl
  have hcheck := ampSweepInvalid_eq s.cfg k p
  rw [hamp, hamp] at hcheck
  refine ⟨fun hv hbad => ?reports, fun hok => ?configures⟩
  case reports => exact execSwpa_reports (by rw [hcheck, check_eq_true hv hbad])
  case configures =>
    rw [execSwpa_configures (by rw [hcheck, check_eq_false hok])]
    refine congrArg _ (configureSweep_of_frames hc ?_)
    have hstart : word p.start % 1024 < 1024 := Nat.mod_lt _ (by decide)
    have hlow : word p.stop % 1024 % 4 = word p.stop % 4 := Nat.mod_mod_of_dvd _ (by decide)
    simp only [hes, sweepFrames, ampSweepWords, acw, hamp, ampBytes_eq hstart, ampEndBytes_eq, ampDeltaBytes_eq, hlow]
    rfl

end Sys2Proof.Machine

/-! PROOFS. The DeviceDriver commands (R180 to R186): the checks and the whole effect of each. -/

namespace Sys2Proof.Machine

/-! ## The word of SELECT -/

/-- SELECT is its header with the mask in the low half of imm8 (R101, R104). -/
theorem encode_select (m : BitVec 4) :
    encode (.select m) = [BitVec.ofNat 32 (0x03 + m.toNat * 2 ^ 16)] := by
  have himm : (m.setWidth 8).toNat = m.toNat := BitVec.toNat_setWidth_of_le (by decide)
  rw [encode, encodeHeader, header, himm]
  rfl

/-! ## Validation -/

section
variable {v : Bool} {k : Kind} {w : Word} {x : Byte} {s : State}

/-- A frequency above the Nyquist fraction is invalid (R155). -/
theorem freqInvalid_eq_true {cfg : Config.Params} {w clk : Nat}
    (h : (if k = .domain then clk else 2 ^ 32) * cfg.nyqNum < w * cfg.nyqDen) : freqInvalid cfg k w clk = true := by
  cases k <;> exact decide_eq_true h

/-- INIT whose check fails (R181). -/
theorem execInit_reports (hv : v = true) (hx : Config.pllMax < x.toNat) :
    exec (.init v x) s = .next (s.report 0) :=
  if_pos (Bool.and_eq_true_iff.2 ⟨hv, decide_eq_true hx⟩)

/-- SETF whose check fails (R183). -/
theorem execSetf_reports (hv : v = true) (hw : freqInvalid s.cfg k w.toNat s.clk.toNat = true) :
    exec (.setf v k w) s = .next (s.report 1) :=
  if_pos (Bool.and_eq_true_iff.2 ⟨hv, hw⟩)

/-- SETF that its check lets through and whose conversion has no value (R183). -/
theorem execSetf_clockZero (hv : v = true → freqInvalid s.cfg k w.toNat s.clk.toNat = false)
    (hw : ftwOf k w.toNat s.clk.toNat = none) : exec (.setf v k w) s = .next (s.raise .clockZero) := by
  have hcheck : (v && freqInvalid s.cfg k w.toNat s.clk.toNat) = false := Bool.and_eq_false_imp.2 hv
  simp only [exec, execSetf, hcheck, hw, Bool.false_eq_true, if_false, raiseFault]

/-- SETA whose check fails (R185). -/
theorem execSeta_reports (hv : v = true) (hw : 1023 < ampWord s.cfg.ampFullScale k w.toNat) :
    exec (.seta v k w) s = .next (s.report 1) :=
  if_pos (Bool.and_eq_true_iff.2 ⟨hv, decide_eq_true hw⟩)

/-- SETA that its check lets through (R185). -/
theorem execSeta_of_ampWord (hv : v = true → ampWord s.cfg.ampFullScale k w.toNat ≤ 1023) :
    exec (.seta v k w) s =
      .next ((s.emit [.frame addrAcr (ampBytes (acw s.cfg.ampFullScale k w.toNat)), .update]).complete 1) := by
  have hcheck : (v && ampInvalid s.cfg k w.toNat) = false :=
    Bool.and_eq_false_imp.2 fun h => decide_eq_false (Nat.not_lt.2 (hv h))
  exact if_neg (Bool.eq_false_iff.1 hcheck)

end

/-! ## The effects -/

/-- The two clock modes as one product mod 2^64: they differ in the clock they multiply (R181). -/
theorem State.scaleClock_eq (s : State) (r : Nat) :
    s.scaleClock r =
      { s with
        clk := BitVec.ofNat 64
          ((if s.cfg.clockMode = .compound then s.clk.toNat else s.baseClk.toNat) * r) } := by
  unfold State.scaleClock
  cases s.cfg.clockMode <;> rfl

/-- UPDATE makes the pending registers the visible ones (R74, R77). -/
theorem Chip.visible_onUpdate (b : Bool) (chip : Chip) (c : Chan) :
    (chip.onUpdate b).visible c = (chip.pend[c.val], chip.p1) := rfl

/-- Settles O16: the ratio's bound decides between the report and the run with the clamped ratio. -/
theorem initResetsChipAndScalesClock : Obligations.InitResetsChipAndScalesClock := by
  intro v x s
  refine ⟨rfl, execInit_reports, fun hok r hr es hes => ?_⟩
  obtain rfl : r = pllRatio x := Fin.ext hr
  have hpass : v = true → x.toNat ≤ Config.pllMax := fun hv => hok.resolve_left (ne_false_of_eq_true hv)
  rw [execInit_of_ratio hpass, State.scaleClock_eq, hes]
  rfl

/-- Settles O17: the frame's byte and the new csr are the merge of the mask. -/
theorem selectMergesChannelMask : Obligations.SelectMergesChannelMask := by
  intro m s c hc
  obtain rfl : csrMerge s.csr m = c := BitVec.eq_of_toNat_eq ((csrMerge_toNat ..).trans hc.symm)
  exact ⟨encode_select m, rfl⟩

/-- Settles O18: the check, then whether the conversion has a value, decides among the three ends. -/
theorem setfWritesTuningWordAndUpdates : Obligations.SetfWritesTuningWordAndUpdates := by
  rintro v k w s limit rfl
  refine ⟨rfl, fun hv hbad => execSetf_reports hv (freqInvalid_eq_true hbad), fun hok => ?passes⟩
  have hpass : v = true → freqInvalid s.cfg k w.toNat s.clk.toNat = false :=
    fun hv => freqInvalid_eq_false (hok.resolve_left (ne_false_of_eq_true hv))
  refine ⟨fun hk hclk => ?clockZero, fun hclk x es hx hes => ?runs⟩
  case clockZero => exact execSetf_clockZero hpass (ftwOf_eq_none.2 ⟨hk, clk_toNat_eq_zero.2 hclk⟩)
  case runs =>
    have hconv : ftwOf k w.toNat s.clk.toNat = some x := by
      rw [hx]
      exact ftwOf_eq_some (hclk.imp_right clk_toNat_eq_zero.not.2)
    rw [execSetf_of_ftwOf hpass hconv, ftwBytes, bytesBE_four, hes]
    rfl

/-- Settles O20: validation sees the whole word, the frame its low ten bits. -/
theorem setaWritesAmplitudeAndUpdates : Obligations.SetaWritesAmplitudeAndUpdates := by
  intro v k w s word hword
  have hamp : ampWord s.cfg.ampFullScale k w.toNat = word := by rw [hword]; cases k <;> rfl
  refine ⟨rfl, fun hv hbad => execSeta_reports hv (hamp ▸ hbad), fun hok es hes => ?_⟩
  have hpass : v = true → ampWord s.cfg.ampFullScale k w.toNat ≤ 1023 :=
    fun hv => hamp ▸ hok.resolve_left (ne_false_of_eq_true hv)
  have hlow : word % 1024 < 1024 := Nat.mod_lt _ (by decide)
  rw [execSeta_of_ampWord hpass, acw, hamp, ampBytes_eq hlow, hes]
  rfl

/-- Settles O15: the operand zero-extended is the new clock. -/
theorem setclkLoadsBothClocks : Obligations.SetclkLoadsBothClocks := by
  intro hz s
  rw [BitVec.ofNat_toNat]
  exact ⟨rfl, rfl⟩

/-- Settles O19: the frame's two bytes are those of the converted word. -/
theorem setpWritesPhaseWithoutUpdate : Obligations.SetpWritesPhaseWithoutUpdate := by
  intro k w s p es hp hes
  have hpow : powOf k w.toNat = p := by rw [hp]; cases k <;> rfl
  refine ⟨rfl, ?_⟩
  rw [hes, ← bytesBE_two, ← hpow]
  rfl

/-- Settles O21: UPDATE copies the pending registers, so equal ones leave what is visible. -/
theorem commitPulsesUpdate : Obligations.CommitPulsesUpdate := by
  intro s
  refine ⟨rfl, rfl, fun hpend hfr1 c => ?_⟩
  calc (s.chip.onUpdate s.cfg.csrBuffered).visible c
      = (s.chip.pend[c.val], s.chip.p1) := Chip.visible_onUpdate ..
    _ = s.chip.visible c := by rw [hpend, hfr1]; rfl

end Sys2Proof.Machine

/-! PROOFS. The step of a sweep under way: its start (R224), and that it reads no stream (R229). -/

namespace Sys2Proof.Machine

/-- R224 commutes with a change of stream. -/
theorem startSweep_withStream (ctx : SweepCtx) (s : State) (ws : List Word) :
    startSweep ctx { s with stream := ws } = { startSweep ctx s with stream := ws } := by
  rw [startSweep_eq, startSweep_eq]

/-- R225 commutes with a change of stream: the draw after a zero hold is of the observer alone. -/
theorem finishSweep_withStream (ctx : SweepCtx) (s : State) (ws : List Word) :
    finishSweep ctx { s with stream := ws } = { finishSweep ctx s with stream := ws } := by
  rw [finishSweep_eq, finishSweep_eq]

/-- Settles O29: a step outside Idle is one of the sweep's two transitions, and neither reads the stream. -/
theorem sweepStepIgnoresStream : Obligations.SweepStepIgnoresStream := by
  intro s t ws hf hsw h
  obtain ⟨-, ⟨ctx, hs, rfl⟩ | ⟨ctx, hs, rfl⟩ | ⟨k, hs, -, -⟩ | ⟨i, hs, -, -⟩⟩ := step_next h
  case inl => rw [step_of_configured (s := { s with stream := ws }) hf hs, startSweep_withStream]
  case inr.inl => rw [step_of_running (s := { s with stream := ws }) hf hs, finishSweep_withStream]
  case inr.inr.inl | inr.inr.inr => exact absurd hs hsw

/-- Settles O26: the step is R224's transition, whose record this is. -/
theorem configuredSweepStartsRamp : Obligations.ConfiguredSweepStartsRamp := by
  intro ctx s hf hs
  rw [step_of_configured hf hs, startSweep_eq]

end Sys2Proof.Machine

/-! PROOFS. POLL (R262 to R266): its faults, a sample that fires nothing, what a sample fires and emits, and that
TLOAD and POLL keep to their channel. -/

namespace Sys2Proof.Machine

/-! ## POLL's faults -/

section
variable {c : Chan} {a b : Level} {s : State}

/-- POLL of a channel with no table (R262). -/
theorem execPoll_unconfigured (h : (s.stepper c).tlen = 0) : execPoll c a b s = .next (s.raise .stepperUnconfigured) :=
  if_pos h

/-- POLL whose action has no conversion (R262). -/
theorem execPoll_clockZero (h0 : 0 < (s.stepper c).tlen) (hk : (s.stepper c).tkind = .domain) (hclk : s.clk = 0#64)
    (hf : stepFires (s.stepper c) a = true ∨ resetFires (s.stepper c) b = true) :
    execPoll c a b s = .next (s.raise .clockZero) := by
  have hcheck : ((stepFires (s.stepper c) a || resetFires (s.stepper c) b) &&
      decide ((s.stepper c).tkind = .domain ∧ s.clk = 0#64)) = true :=
    Bool.and_eq_true_iff.2 ⟨Bool.or_eq_true_iff.2 hf, decide_eq_true ⟨hk, hclk⟩⟩
  rw [execPoll, if_neg h0.ne', if_pos hcheck, raiseFault]

/-! ## POLL where no fault applies -/

/-- POLL of a sample that fires nothing sets the latches alone (R263, R264). -/
theorem execPoll_quiet (h0 : 0 < (s.stepper c).tlen) (hsf : stepFires (s.stepper c) a = false)
    (hrf : resetFires (s.stepper c) b = false) :
    execPoll c a b s =
      .next ((s.setStepper c { s.stepper c with stepLatch := latchAfter a, resetLatch := latchAfter b }).complete 0) := by
  have hreset := resetAutomaton_quiet (c := c) (l := b)
    (s := s.setStepper c { s.stepper c with stepLatch := latchAfter a }) (by rwa [State.stepper_setStepper_self])
  rw [execPoll_run h0 (by simp [hsf, hrf]) (stepAutomaton_quiet hsf) hreset, State.stepper_setStepper_self,
    State.setStepper_setStepper]

/-- A program action merges the same channel again, so its events do not depend on an action before it (R265). -/
theorem programEvents_csrMerge (csr : Byte) (c : Chan) (x : Nat) :
    programEvents (csrMerge csr (chanMask c)) c x = programEvents csr c x := by
  rw [programEvents, csrMerge_csrMerge, programEvents]

/-- Whether a reset sample fires depends on the reset latch alone (R264). -/
theorem resetFires_congr {t u : Stepper} {l : Level} (h : u.resetLatch = t.resetLatch) :
    resetFires u l = resetFires t l := by
  rw [resetFires, h, resetFires]

/-- POLL where no fault applies as one record: `sf` and `rf` say what fires, `e1` and `e2` are the entries (R262 to R265). -/
theorem execPoll_eq {t : Stepper} {sf rf : Bool} {e1 e2 : Word} (ht : s.stepper c = t) (h0 : 0 < t.tlen)
    (hsf : stepFires t a = sf) (hrf : resetFires t b = rf)
    (he1 : sf = true → s.tableRead c (t.cursor + 1).toNat = some e1) (he2 : rf = true → s.tableRead c 0 = some e2)
    (hconv : (sf || rf) = true → t.tkind = .raw ∨ s.clk.toNat ≠ 0) :
    execPoll c a b s = .next ((polled s c
      { t with
        cursor := if rf then 0 else if sf then t.cursor + 1 else t.cursor
        stepLatch := latchAfter a
        resetLatch := latchAfter b }
      (if sf || rf then csrMerge s.csr (chanMask c) else s.csr)
      (if rf then some (t.tkind, e2) else if sf then some (t.tkind, e1) else s.lastFreq)
      ((if sf then entryEvents c t.tkind s e1 else []) ++ (if rf then entryEvents c t.tkind s e2 else []))).complete 0) := by
  subst ht
  have hword : ∀ w : Word, (sf || rf) = true →
      ftwOf (s.stepper c).tkind w.toNat s.clk.toNat = some (entryWord (s.stepper c).tkind s.clk.toNat w) :=
    fun w hf => ftwOf_eq_some (hconv hf)
  have hzero : (stepFires (s.stepper c) a || resetFires (s.stepper c) b) = true →
      ¬((s.stepper c).tkind = .domain ∧ s.clk = 0#64) := by
    rw [hsf, hrf]
    rintro hf ⟨hk, hclk⟩
    simpa [hk, hclk] using hconv hf
  have hstep : stepAutomaton c a s = some (polled s c _ _ _ _) :=
    stepAutomaton_eq hsf he1 fun h => hword e1 (by simp [h])
  obtain ⟨hclk, hkind, hlatch, htable⟩ := stepAutomaton_keeps hstep
  have hreset := resetAutomaton_eq (e := e2) ((resetFires_congr hlatch).trans hrf) (by rwa [htable]) fun h => by
    rw [hkind, hclk]; exact hword e2 (by simp [h])
  rw [execPoll_run h0 hzero hstep hreset]
  -- what fires is one of four cases; where both do, the second merge and its events are those from the csr of `s`
  cases sf <;> cases rf <;>
    simp [polled, State.emit, State.stepper, entryEvents, programEvents_csrMerge, csrMerge_csrMerge]

end

/-! ## The statements -/

/-- A channel in range has the entries that its two automata may read (R33, R262). -/
theorem StepperOk.entries {c : Chan} {s : State} (h : StepperOk s c) (h0 : 0 < (s.stepper c).tlen) :
    ∃ e1 e2 : Word,
      ((s.stepper c).cursor < ((s.stepper c).tlen : Int) - 1 → s.tableRead c ((s.stepper c).cursor + 1).toNat = some e1) ∧
      s.tableRead c 0 = some e2 := by
  obtain ⟨-, hlo, -, -, hread⟩ := h
  obtain ⟨e2, he2⟩ := Option.isSome_iff_exists.1 (hread 0 h0)
  by_cases hcur : (s.stepper c).cursor < ((s.stepper c).tlen : Int) - 1
  · obtain ⟨e1, he1⟩ := Option.isSome_iff_exists.1 (hread ((s.stepper c).cursor + 1).toNat (by omega))
    exact ⟨e1, e2, fun _ => he1, he2⟩
  · exact ⟨0#32, e2, fun h => absurd h hcur, he2⟩

/-- Settles O31: the entries exist by the invariant, and POLL is its one record. -/
theorem pollFiresAutomata : Obligations.PollFiresAutomata := by
  rintro ch stp rst s t c sf rf word act rfl hok h0 hsf hrf hzero hc hword hact
  obtain ⟨e1, e2, he1, he2⟩ := hok.entries h0
  have he1' : sf = true → s.tableRead ch ((s.stepper ch).cursor + 1).toNat = some e1 := fun h => by
    obtain ⟨-, -, hcur⟩ := hsf.1 h
    exact he1 hcur
  have hsf' : stepFires (s.stepper ch) stp = sf := by rw [Bool.eq_iff_iff, hsf, stepFires, decide_eq_true_iff]
  have hrf' : resetFires (s.stepper ch) rst = rf := by rw [Bool.eq_iff_iff, hrf, resetFires, decide_eq_true_iff]
  have hconv : (sf || rf) = true → (s.stepper ch).tkind = .raw ∨ s.clk.toNat ≠ 0 := fun hf => by
    cases hk : (s.stepper ch).tkind with
    | raw => exact .inl rfl
    | domain =>
      refine .inr fun hclk => ?_
      obtain ⟨rfl, rfl⟩ := hzero hk (clk_toNat_eq_zero.1 hclk)
      exact nomatch hf
  have hc' : csrMerge s.csr (chanMask ch) = c := BitVec.eq_of_toNat_eq ((csrMerge_chanMask_toNat ..).trans hc.symm)
  have hact' : entryEvents ch (s.stepper ch).tkind s = act :=
    funext fun w => by rw [entryEvents_eq, hact, hword, hc', entryWord]
  have hrun := execPoll_eq rfl h0 hsf' hrf' he1' (fun _ => he2) hconv
  rw [hact', hc'] at hrun
  exact ⟨e1, e2, he1', fun _ => he2, hrun⟩

/-- Settles O32: both checks come before the automata. -/
theorem pollFaultsBeforeAnyEffect : Obligations.PollFaultsBeforeAnyEffect := by
  intro ch stp rst s
  exact ⟨execPoll_unconfigured, fun h0 hk hclk hf =>
    execPoll_clockZero h0 hk hclk (hf.imp decide_eq_true decide_eq_true)⟩

/-- Held lines leave the latches of a channel that has both Fired (R263, R264). -/
theorem Stepper.latchAfter_high_of_fired {t : Stepper} (hs : t.stepLatch = .fired) (hr : t.resetLatch = .fired) :
    { t with stepLatch := latchAfter .high, resetLatch := latchAfter .high } = t := by
  cases t
  cases hs
  cases hr
  rfl

/-- Settles O33: neither sample fires, so POLL sets the latches, in the second case to what they are. -/
theorem quietSamplesFireNothing : Obligations.QuietSamplesFireNothing := by
  intro ch s h0
  refine ⟨fun hcur => ?exhausted, fun hsl hrl => ?held⟩
  case exhausted =>
    exact execPoll_quiet h0 (by simp [stepFires, hcur]) (by simp [resetFires])
  case held =>
    have hrun := execPoll_quiet (a := .high) (b := .high) h0 (by simp [stepFires, hsl]) (by simp [resetFires, hrl])
    rw [Stepper.latchAfter_high_of_fired hsl hrl, State.setStepper_stepper] at hrun
    exact hrun

/-- Settles O35: of a command's ends only completion reaches a channel, and TLOAD and POLL reach their own. -/
theorem stepperChannelsAreSeparate : Obligations.StepperChannelsAreSeparate := by
  intro i s t d h htload hpoll
  cases exec_outcome h with
  | raised | reported | configured => exact ⟨rfl, fun _ _ => rfl⟩
  | completed hu =>
    cases hu with
    | tload ch k es hes =>
      have hne : ch ≠ d := htload ch k es rfl
      exact ⟨State.stepper_setStepper_ne _ ch d _ hne, fun j hj => tableRead_tableWrite_ne s hne hes.2 hj⟩
    | poll ch a b u csr lf es =>
      exact ⟨stepper_polled_ne s u csr lf es (hpoll ch a b rfl), fun _ _ => rfl⟩
    | _ => exact ⟨rfl, fun _ _ => rfl⟩

end Sys2Proof.Machine

/-! PROOFS. A step that raises a fault (R302, R304, R307): the fault is the whole of its effect. -/

namespace Sys2Proof.Machine

/-- A command ends with the fault field as it was, or does nothing but raise a fault (R302). -/
theorem exec_keepsFault_or_raises {i : Instr} {s t : State} (h : exec i s = .next t) :
    t.fault = s.fault ∨ ∃ k, t = s.raise k := by
  cases exec_outcome h with
  | raised k => exact .inr ⟨k, rfl⟩
  | reported => exact .inl (State.report_fault ..)
  | configured => exact .inl (by simp [configureSweep])
  | completed hu => exact .inl ((State.complete_fault ..).trans hu.fault)

/-- A step ends with the fault field as it was, or does nothing but raise a fault (R302, R304). -/
theorem step_keepsFault_or_raises {s t : State} (h : step s = .next t) : t.fault = s.fault ∨ ∃ k, t = s.raise k := by
  obtain ⟨-, ⟨ctx, -, rfl⟩ | ⟨ctx, -, rfl⟩ | ⟨k, -, -, rfl⟩ | ⟨i, -, -, he⟩⟩ := step_next h
  · exact .inl (by simp [startSweep])
  · exact .inl (by simp [finishSweep])
  · exact .inr ⟨k, rfl⟩
  · exact exec_keepsFault_or_raises he

/-- Settles O11: a step that does not keep the fault field only raises a fault, and that fault is the one it ends with. -/
theorem faultChangesOnlyFault : Obligations.FaultChangesOnlyFault := by
  intro s t k hf h hk
  rcases step_keepsFault_or_raises h with hkept | ⟨j, rfl⟩
  · exact nomatch hk.symm.trans (hkept.trans hf)
  · obtain rfl : j = k := Option.some.inj ((State.raise_fault s j).symm.trans hk)
    rfl

end Sys2Proof.Machine

/-! PROOFS. The events and the bus bytes of each command (R356): of its own step, of a whole sweep, and none of a report or a
fault. -/

namespace Sys2Proof.Machine

/-- R356's row of a command that neither reports nor faults, for the events `es` of its own step. -/
def RowCounts (i : Instr) (es : List Event) : Prop :=
  match i with
  | .setclk _ | .tload _ _ _ => es.length = 0 ∧ busByteCount es = 0
  | .init _ _ => es.length = 3 ∧ busByteCount es = 4
  | .select _ => es.length = 1 ∧ busByteCount es = 2
  | .setf _ _ _ => es.length = 2 ∧ busByteCount es = 5
  | .setp _ _ => es.length = 1 ∧ busByteCount es = 3
  | .seta _ _ _ => es.length = 2 ∧ busByteCount es = 4
  | .commit => es.length = 1 ∧ busByteCount es = 0
  | .poll _ _ _ => (es.length = 0 ∧ busByteCount es = 0) ∨ (es.length = 3 ∧ busByteCount es = 7) ∨
      (es.length = 6 ∧ busByteCount es = 14)
  | .swpf _ _ _ _ => es.length = 7 ∧ busByteCount es = 29
  | .swpp _ _ _ => es.length = 7 ∧ busByteCount es = 27
  | .swpa _ _ _ _ => es.length = 7 ∧ busByteCount es = 28

@[simp] theorem busByteCount_append (es fs : List Event) :
    busByteCount (es ++ fs) = busByteCount es + busByteCount fs := by
  simp [busByteCount]

/-! ## POLL -/

/-- An automaton emits nothing or the three events of one program action (R265). -/
theorem AutomatonEffect.counts {c : Chan} {u : Stepper} {s t : State} (h : AutomatonEffect c u s t) :
    ∃ es, t.trace = s.trace ++ es ∧
      ((es.length = 0 ∧ busByteCount es = 0) ∨ (es.length = 3 ∧ busByteCount es = 7)) := by
  rcases h with rfl | ⟨i, e, x, -, -, rfl⟩
  · exact ⟨[], by simp, .inl ⟨rfl, rfl⟩⟩
  · exact ⟨programEvents s.csr c x, rfl, .inr ⟨rfl, rfl⟩⟩

/-- POLL without a fault emits the events of none, one or two program actions (R262). -/
theorem execPoll_rowCounts {c : Chan} {a b : Level} {s t : State} (h : execPoll c a b s = .next t) (hf : t.fault = none) :
    ∃ es, t.trace = s.trace ++ es ∧ RowCounts (.poll c a b) es := by
  rcases execPoll_next h with ⟨-, rfl⟩ | ⟨-, -, -, rfl⟩ | ⟨-, s1, s2, h1, h2, rfl⟩
  · exact nomatch hf
  · exact nomatch hf
  · obtain ⟨es, htrace, hes⟩ := (stepAutomaton_effect h1).counts
    obtain ⟨fs, htrace', hfs⟩ := (resetAutomaton_effect h2).counts
    refine ⟨es ++ fs, by rw [State.complete_trace, htrace', htrace, List.append_assoc], ?_⟩
    rw [RowCounts, List.length_append, busByteCount_append]
    omega

/-! ## Sweeps -/

/-- The bus bytes of a sweep's seven frames (R356). -/
def sweepBusBytes : SweepKind → Nat
  | .freq => 29
  | .phase => 27
  | .amp => 28

/-- Configuring a sweep emits seven frames, of one size in all but for the start frame (R62, R223). -/
theorem configureSweep_counts {kind : SweepKind} {ch : Chan} {p : SweepOps} {w : SweepWords} {s : State} (hw : w.Fits)
    (hstart : w.startFrame.busBytes.length + 24 = sweepBusBytes kind) :
    ∃ es, (configureSweep kind ch p w s).trace = s.trace ++ es ∧ es.length = 7 ∧ busByteCount es = sweepBusBytes kind := by
  rw [configureSweep_eq, ← hstart]
  refine ⟨_, rfl, rfl, ?_⟩
  simp only [busByteCount, sweepFrames, List.map_cons, List.map_nil, List.sum_cons, List.sum_nil, Event.busBytes,
    List.length_cons, List.length_nil, cfrBytes_length, lsrrBytes_length, hw.stop, hw.rise, hw.fall]
  omega

/-- The start frame of the freq row is the four-byte FTW (R220). -/
theorem freqSweepWords_startFrame {k : Kind} {p : SweepOps} {clk : Nat} {w : SweepWords}
    (h : freqSweepWords k p clk = some w) : ∃ x, w.startFrame = .frame addrFtw (ftwBytes x) := by
  unfold freqSweepWords at h
  split at h
  · cases h
    exact ⟨_, rfl⟩
  · exact nomatch h

/-- A command that leaves the FSM outside Idle has emitted the seven frames of its kind (R220, R223). -/
theorem exec_configures_counts {i : Instr} {ctx : SweepCtx} {s t : State} (hi : sweepCtxOf i = some ctx)
    (hs : s.sweep = .idle) (h : exec i s = .next t) (ht : t.sweep ≠ .idle) :
    ∃ es, t.trace = s.trace ++ es ∧ es.length = 7 ∧ busByteCount es = sweepBusBytes ctx.kind := by
  cases i with
  | swpf ch v k p =>
    cases hi
    rcases ite_report_next h with ⟨-, rfl⟩ | h
    · exact absurd hs ht
    · split at h
      · cases h
        exact absurd hs ht
      · next w hw =>
        obtain ⟨x, hx⟩ := freqSweepWords_startFrame hw
        cases h
        exact configureSweep_counts (freqSweepWords_fits hw) (by rw [hx]; rfl)
  | swpp ch k p =>
    cases hi
    cases h
    exact configureSweep_counts (phaseSweepWords_fits k p) rfl
  | swpa ch v k p =>
    cases hi
    rcases ite_report_next h with ⟨-, rfl⟩ | h
    · exact absurd hs ht
    · cases h
      exact configureSweep_counts (ampSweepWords_fits _ k p) rfl
  | _ => exact nomatch hi

/-- The row of a sweep's command by its kind. -/
theorem rowCounts_of_sweepCtxOf {i : Instr} {ctx : SweepCtx} {es : List Event} (hi : sweepCtxOf i = some ctx)
    (h : es.length = 7 ∧ busByteCount es = sweepBusBytes ctx.kind) : RowCounts i es := by
  cases i with
  | swpf | swpp | swpa =>
    cases hi
    exact h
  | _ => exact nomatch hi

/-! ## Any command -/

/-- A command that neither reports nor faults emits its row of R356. -/
theorem exec_rowCounts {i : Instr} {s t : State} (hs : s.sweep = .idle) (h : exec i s = .next t) (hf : t.fault = none)
    (hend : t.status = .ok ∨ t.sweep ≠ .idle) : ∃ es, t.trace = s.trace ++ es ∧ RowCounts i es := by
  cases exec_outcome h with
  | raised => exact nomatch hf
  | reported => exact hend.elim nofun (absurd hs)
  | configured hc =>
    obtain ⟨es, htrace, hes⟩ := exec_configures_counts hc hs h nofun
    exact ⟨es, htrace, rowCounts_of_sweepCtxOf hc hes⟩
  | completed hu =>
    cases hu with
    | poll => exact execPoll_rowCounts h hf
    | setclk | tload => exact ⟨[], by simp, rfl, rfl⟩
    | _ => exact ⟨_, rfl, rfl, rfl⟩

/-- A command that reports or faults emits nothing (R301, R302). -/
theorem exec_trace_of_failed {i : Instr} {s t : State} (hf : s.fault = none) (h : exec i s = .next t)
    (hend : t.fault ≠ none ∨ (t.status = .invalidParameter ∧ t.sweep = .idle)) : t.trace = s.trace := by
  cases exec_outcome h with
  | raised | reported => rfl
  | configured => exact hend.elim (absurd hf) fun ⟨_, hidle⟩ => nomatch hidle
  | completed hu => exact hend.elim (absurd (hu.fault.trans hf)) fun ⟨hstatus, _⟩ => nomatch hstatus

/-- Settles O60: each end of a command has its own count, and the two steps after a sweep's frames add four events that put
no byte on the bus. -/
theorem commandEventCounts : Obligations.CommandEventCounts := by
  refine ⟨fun i s t es hs h hf hend htrace => ?own, fun i ctx s s1 t rest es hf hs hw hdrop hi h h1 hrun htrace => ?whole,
    fun i s t hf _ h hend => exec_trace_of_failed hf h hend⟩
  case own =>
    obtain ⟨fs, hfs, hrow⟩ := exec_rowCounts hs h hf hend
    obtain rfl : fs = es := List.append_cancel_left (hfs.symm.trans htrace)
    exact hrow
  case whole =>
    obtain ⟨frames, _, _, -, hframes, -, rfl, hrun', -, -⟩ := sweepRunsToCompletion s s1 i ctx rest hf hs hw hdrop hi h h1
    obtain ⟨fs, hfs, hlen, hbytes⟩ := exec_configures_counts hi hs h h1
    obtain rfl : fs = frames := List.append_cancel_left (hfs.symm.trans hframes)
    cases hrun'.symm.trans hrun
    obtain rfl := List.append_cancel_left htrace
    exact ⟨by rw [List.length_append, hlen]; rfl, by rw [busByteCount_append, hbytes]; rfl⟩

end Sys2Proof.Machine
